-- ==== Sys2Proof/Word.lean ====
section
/-! DEFINITION. The word and the byte of the block (spec/00_scope.md R7, R9). -/

namespace Sys2Proof

/-- A register, a CRC or a length: 32 bits (R7). -/
abbrev Word := BitVec 32

/-- One byte of IBUF or OBUF, or one type-code byte (R9). -/
abbrev Byte := BitVec 8

end Sys2Proof
end

