-- ==== Sys2Proof/Syntax.lean ====
section
/-! DEFINITION. The commands of the block (spec/30_encoding.md R70, R71), one constructor per row of the opcode table. -/

namespace Sys2Proof

/-- The nine commands of R71. Only CRC_BYTE has an operand in the command word, its byte IMM8 (R72). -/
inductive Instr where
  /-- NOP (44_control.md R180). -/
  | nop
  /-- CRC_INIT (41_crc.md R125). -/
  | crcInit
  /-- CRC_BYTE b (41_crc.md R126). -/
  | crcByte (b : Byte)
  /-- TC_RAW (40_typecode.md R107). -/
  | tcRaw
  /-- TC_TEXT (40_typecode.md R108). -/
  | tcText
  /-- CH_NEW (42_chunk.md R140). -/
  | chNew
  /-- CH_CRC (42_chunk.md R142). -/
  | chCrc
  /-- PARSE (43_parse.md R165). -/
  | parse
  /-- ENCODE (42_chunk.md R144). -/
  | encode
deriving DecidableEq, Repr

/-- The fields of a command word in the one format CMD32 (R70), legal or not. -/
structure Cmd32 where
  /-- RSV, bits 31:16. -/
  rsv : BitVec 16
  /-- IMM8, bits 15:8. -/
  imm8 : Byte
  /-- OP, bits 7:0. -/
  op : Byte
deriving DecidableEq, Repr

end Sys2Proof
end

