-- ==== Sys2Proof/WellFormed.lean ====
section
/-! DEFINITION. When the fields of a command word make a legal command (spec/30_encoding.md R70, R71, R73). The types of
Syntax leave an `Instr` no ill-formed term: the one operand, IMM8 of CRC_BYTE, ranges over all bytes (R72). -/

namespace Sys2Proof

/-- The opcode values R71 assigns. -/
def assignedOps : List Byte :=
  [0x00#8, 0x01#8, 0x02#8, 0x10#8, 0x11#8, 0x20#8, 0x21#8, 0x30#8, 0x40#8]

/-- RSV is 0 (R70: "reserved, must be 0"). -/
def Cmd32.rsvOk (c : Cmd32) : Bool := c.rsv == 0#16

/-- OP is assigned by R71. -/
def Cmd32.opOk (c : Cmd32) : Bool := assignedOps.contains c.op

/-- IMM8 is 0 for every opcode but CRC_BYTE's (R70). -/
def Cmd32.immOk (c : Cmd32) : Bool := c.op == 0x02#8 || c.imm8 == 0#8

/-- The fields make a legal command word (R71, R73). -/
def Cmd32.WellFormed (c : Cmd32) : Bool := c.rsvOk && c.opOk && c.immOk

/-- Every command term is well-formed: R72 puts no bound on CRC_BYTE's byte, and the other commands have no operand. -/
def Instr.WellFormed (i : Instr) : Bool :=
  match i with
  | .nop => true
  | .crcInit => true
  | .crcByte _ => true
  | .tcRaw => true
  | .tcText => true
  | .chNew => true
  | .chCrc => true
  | .parse => true
  | .encode => true

end Sys2Proof
end

