-- ==== Sys2Proof/Decode.lean ====
section
/-! DEFINITION. The decoder of command words, the encoder, and the opcode table (spec/30_encoding.md R70 to R75). -/

namespace Sys2Proof

/-- Why a word is an illegal command (R73, R74). All three run the one illegal-command rule (44_control.md R181). -/
inductive IllegalWord where
  /-- RSV, bits 31:16, is not 0. -/
  | reservedNonzero
  /-- OP, bits 7:0, is one of the 247 values R71 leaves unassigned. -/
  | opcodeUnassigned
  /-- IMM8, bits 15:8, is not 0 and the opcode is not CRC_BYTE's. -/
  | immNonzero
deriving DecidableEq, Repr

/-- OP = v[7:0], IMM8 = v[15:8], RSV = v[31:16] (R70). -/
def cmdFields (v : Word) : Cmd32 :=
  { rsv := v.extractLsb' 16 16, imm8 := v.extractLsb' 8 8, op := v.extractLsb' 0 8 }

/-- The word with given fields (R70). -/
def cmdWord (c : Cmd32) : Word :=
  (c.rsv.setWidth 32 <<< 16) ||| (c.imm8.setWidth 32 <<< 8) ||| c.op.setWidth 32

/-- The commands that take no byte operand, by opcode (R71). -/
def plainCommand (op : Byte) : Option Instr :=
  if op = 0x00#8 then some .nop
  else if op = 0x01#8 then some .crcInit
  else if op = 0x10#8 then some .tcRaw
  else if op = 0x11#8 then some .tcText
  else if op = 0x20#8 then some .chNew
  else if op = 0x21#8 then some .chCrc
  else if op = 0x30#8 then some .parse
  else if op = 0x40#8 then some .encode
  else none

/-- R73's decoder: total, each word exactly one command or illegal under a name. -/
def decode (v : Word) : Except IllegalWord Instr :=
  let c := cmdFields v
  if c.rsv ≠ 0#16 then .error .reservedNonzero
  else if c.op = 0x02#8 then .ok (.crcByte c.imm8)
  else match plainCommand c.op with
    | none => .error .opcodeUnassigned
    | some i => if c.imm8 ≠ 0#8 then .error .immNonzero else .ok i

/-- The fields of a command's word (R71). -/
def Instr.fields : Instr → Cmd32
  | .nop => ⟨0#16, 0#8, 0x00#8⟩
  | .crcInit => ⟨0#16, 0#8, 0x01#8⟩
  | .crcByte b => ⟨0#16, b, 0x02#8⟩
  | .tcRaw => ⟨0#16, 0#8, 0x10#8⟩
  | .tcText => ⟨0#16, 0#8, 0x11#8⟩
  | .chNew => ⟨0#16, 0#8, 0x20#8⟩
  | .chCrc => ⟨0#16, 0#8, 0x21#8⟩
  | .parse => ⟨0#16, 0#8, 0x30#8⟩
  | .encode => ⟨0#16, 0#8, 0x40#8⟩

/-- The word of a command (R71): one 32-bit word, R75. -/
def encode (i : Instr) : Word := cmdWord i.fields

/-- One row of R71's opcode map: the row matches a word iff `(v AND mask) = pattern`. -/
structure OpcodeRow where
  mnemonic : String
  pattern : Word
  mask : Word
deriving DecidableEq, Repr

/-- R71's rows, as spec/opcode_table.json has them. -/
def opcodeTable : List OpcodeRow :=
  [ ⟨"NOP", 0x00000000#32, 0xFFFFFFFF#32⟩, ⟨"CRC_INIT", 0x00000001#32, 0xFFFFFFFF#32⟩,
    ⟨"CRC_BYTE", 0x00000002#32, 0xFFFF00FF#32⟩, ⟨"TC_RAW", 0x00000010#32, 0xFFFFFFFF#32⟩,
    ⟨"TC_TEXT", 0x00000011#32, 0xFFFFFFFF#32⟩, ⟨"CH_NEW", 0x00000020#32, 0xFFFFFFFF#32⟩,
    ⟨"CH_CRC", 0x00000021#32, 0xFFFFFFFF#32⟩, ⟨"PARSE", 0x00000030#32, 0xFFFFFFFF#32⟩,
    ⟨"ENCODE", 0x00000040#32, 0xFFFFFFFF#32⟩ ]

/-- A word selects a row (R71). -/
def OpcodeRow.selects (r : OpcodeRow) (v : Word) : Bool := (v &&& r.mask) == r.pattern

/-- A command's mnemonic in R71. -/
def Instr.mnemonic : Instr → String
  | .nop => "NOP"
  | .crcInit => "CRC_INIT"
  | .crcByte _ => "CRC_BYTE"
  | .tcRaw => "TC_RAW"
  | .tcText => "TC_TEXT"
  | .chNew => "CH_NEW"
  | .chCrc => "CH_CRC"
  | .parse => "PARSE"
  | .encode => "ENCODE"

/-- What the decoder reads from a command whose bits are `w`, numbered as the opcode table numbers them. A command is one
32-bit word (R75): fewer bits are filled up with zeros, more make no command. -/
def decodeTableWord (nbits w : Nat) : Option Instr :=
  if nbits ≤ 32 then
    match decode (BitVec.ofNat 32 (w % 2 ^ nbits)) with
    | .ok i => some i
    | .error _ => none
  else none

end Sys2Proof
end

