-- ==== Sys2Proof/Config.lean ====
section
/-! DEFINITION. The parameters an implementation fixes (spec/00_scope.md R6, spec/20_memory.md R62). They have no value
here, only the bounds the spec sets, so what is proved holds for every block R6 allows (log entry 1). -/

namespace Sys2Proof

/-- How far IBUF_SIZE lies above its lower bound 12: any number that keeps `IBUF_SIZE <= 2^32 - 13` (R6). -/
opaque Config.ibufExtra : Fin 4294967272

/-- IBUF_SIZE, the number of bytes of IBUF: `12 <= IBUF_SIZE <= 2^32 - 13` (R6). -/
def Config.ibufSize : Nat := Config.ibufExtra.val + 12

/-- How far OBUF_SIZE lies above its lower bound `IBUF_SIZE + 12`: any number that keeps `OBUF_SIZE <= 2^32 - 1` (R6). -/
opaque Config.obufExtra : Fin (4294967283 - Config.ibufSize + 1)

/-- OBUF_SIZE, the number of bytes of OBUF: `IBUF_SIZE + 12 <= OBUF_SIZE <= 2^32 - 1` (R6). -/
def Config.obufSize : Nat := Config.obufExtra.val + (Config.ibufSize + 12)

/-- CFB_BASE, the host address of register offset 0: left to the platform, and no rule depends on it (R62, U18). -/
opaque Config.cfbBase : Nat

end Sys2Proof
end

