-- ==== Sys2Proof/Machine/State.lean ====
section
/-! DEFINITION. The state of the block (spec/10_state.md, spec/20_memory.md) as plain data, the host's transactions, and
the reasons a step can stop (spec/60_exceptions.md R210). -/

namespace Sys2Proof.Machine

/-- The written bytes of a buffer, addresses strictly rising. An address not listed is an unwritten byte, which has no
value (20_memory.md R56). -/
abbrev Memory := List Host.Cell

/-- The host-visible registers of 10_state.md R22. -/
inductive Reg where
  | cmd | arg0 | status | inLen | type | crcOut | chLen | chType | chOff | decLen | expCrc | outLen
deriving DecidableEq, Repr

/-- The error codes that have a name in 60_exceptions.md R201. -/
inductive ErrCode where
  /-- 0: every successful command. -/
  | none
  /-- 1: TC_TEXT. -/
  | invalidFormat
  /-- 2: PARSE. -/
  | integrity
  /-- 3: PARSE. -/
  | truncated
  /-- 4: reserved, raised by no command (U11). -/
  | encoding
  /-- 5: CH_CRC and ENCODE. -/
  | noChunk
  /-- 6: TC_TEXT, CH_NEW and PARSE. -/
  | capacity
  /-- 7: an illegal command word. -/
  | illegalCmd
deriving DecidableEq, Repr

/-- The host's transactions, exactly those of 20_memory.md R51. A register access names its size in bytes, so that the
sub-word access R39 forbids can be written. -/
inductive HostTxn where
  /-- RegRead of `bytes` bytes at offset `o` (10_state.md R39). -/
  | regRead (o bytes : Nat)
  /-- RegWrite of `v`, `bytes` bytes, at offset `o` (10_state.md R40). -/
  | regWrite (o bytes : Nat) (v : Word)
  /-- IbufWrite (20_memory.md R55). -/
  | ibufWrite (i : Nat) (b : Byte)
  /-- IbufRead (20_memory.md R58). -/
  | ibufRead (i : Nat)
  /-- ObufRead (20_memory.md R57). -/
  | obufRead (i : Nat)
  /-- Reset (70_reset_and_hazards.md R220). -/
  | reset
deriving DecidableEq, Repr

/-- What a read returns to the host: a register's word or a buffer's byte. -/
inductive Reply where
  | word (w : Word)
  | byte (b : Byte)
deriving DecidableEq, Repr

/-- The accesses that break the host protocol (60_exceptions.md R210). -/
inductive HostViolation where
  /-- An access other than a STATUS read while BUSY = 1 (R225). -/
  | busyAccess
  /-- A register access at an offset not in R22. -/
  | unmappedRegister
  /-- A register access that is not a whole aligned 32-bit word. -/
  | subwordAccess
  /-- An IbufWrite or IbufRead at an index >= IBUF_SIZE. -/
  | ibufOutOfRange
  /-- An ObufRead at an index >= OBUF_SIZE. -/
  | obufOutOfRange
deriving DecidableEq, Repr

/-- The fault outcomes of 60_exceptions.md R210: no successor state. -/
inductive Fault where
  /-- Raised by a host transaction that breaks the protocol. Safe: the model stops where the spec gives no behaviour. -/
  | hostProtocol (why : HostViolation)
  /-- Raised by a host read or a command's MemRead of a byte not written since reset (20_memory.md R56). Safe: the model
  stops where the spec gives no value. -/
  | uninitialisedRead
deriving DecidableEq, Repr

/-- The reasons a step has no meaning. -/
inductive Refusal where
  /-- Raised by exec's arm of a command that has no meaning yet; none is left. Safe: the model stops. -/
  | notModelled (mnemonic : String)
deriving DecidableEq, Repr

/-- Everything the spec gives the block, and the host's side of the transactions. -/
structure State where
  /-- CMD: the last command word written (10_state.md R24). -/
  cmd : Word
  /-- ARG0: the operand of TC_RAW (R25). -/
  arg0 : Word
  /-- IN_LEN: how many bytes of IBUF the next command takes (R26). -/
  inLen : Word
  /-- TYPE: the working type code, byte 0 in bits 31:24 (R27). -/
  type : Word
  /-- ACC: the CRC accumulator, not finalised (R28). -/
  acc : Word
  /-- CH_LEN (R29). -/
  chLen : Word
  /-- CH_TYPE (R30). -/
  chType : Word
  /-- CH_OFF (R31). -/
  chOff : Word
  /-- CH_VALID (R32). -/
  chValid : Bool
  /-- DEC_LEN (R33). -/
  decLen : Word
  /-- EXP_CRC (R34). -/
  expCrc : Word
  /-- OUT_LEN (R35). -/
  outLen : Word
  /-- CRC_MATCH (R36). -/
  crcMatch : Bool
  /-- ERR, the 4-bit field of STATUS (R37, 60_exceptions.md R201). -/
  err : BitVec 4
  /-- BUSY (R38). -/
  busy : Bool
  /-- IBUF (20_memory.md R50). -/
  ibuf : Memory
  /-- OBUF (20_memory.md R50). -/
  obuf : Memory
  /-- The model's own: the transactions the host issues next, oldest first. DESIGN CHOICE, log entry 2. -/
  pending : List HostTxn
  /-- The model's own: what the last transaction returned to the host. DESIGN CHOICE, log entry 3. -/
  reply : Option Reply
deriving DecidableEq, Repr

/-- The state right after reset (70_reset_and_hazards.md R220), with the host having issued nothing. -/
def State.reset : State :=
  { cmd := 0x00000000#32, arg0 := 0x00000000#32, inLen := 0x00000000#32, type := 0x00000000#32,
    acc := 0xFFFFFFFF#32, chLen := 0x00000000#32, chType := 0x00000000#32, chOff := 0x00000000#32,
    chValid := false, decLen := 0x00000000#32, expCrc := 0x00000000#32, outLen := 0x00000000#32,
    crcMatch := false, err := 0#4, busy := false, ibuf := [], obuf := [], pending := [], reply := none }

end Sys2Proof.Machine
end

