-- ==== Sys2Proof/Machine/Operands.lean ====
section
/-! DEFINITION. How operands are read as bytes and words: big-endian numbers and packed type codes
(spec/00_scope.md R11, spec/10_state.md R27, spec/20_memory.md R52, R53). -/

namespace Sys2Proof.Machine

/-- `zext_32(b)` (R11). -/
def zext32 (b : Byte) : Word := b.setWidth 32

/-- `be32(s)`: the big-endian number of a byte sequence (R11). -/
def be32 (s : List Byte) : Word := s.foldl (fun v b => (v <<< 8) ||| zext32 b) 0#32

/-- `bytes32(v)`: the four bytes of a word, most significant first (R11). -/
def bytes32 (v : Word) : List Byte :=
  [v.extractLsb' 24 8, v.extractLsb' 16 8, v.extractLsb' 8 8, v.extractLsb' 0 8]

/-- Type-code byte `i` of a packed type code: bits `[31-8i : 24-8i]` (10_state.md R27, 30_encoding.md R72). -/
def typeByte (t : Word) (i : Nat) : Byte := t.extractLsb' (24 - 8 * i) 8

/-- `alpha(b)`: an ASCII letter (40_typecode.md R103). -/
def alpha (b : Byte) : Bool :=
  (0x41#8 ≤ b && b ≤ 0x5A#8) || (0x61#8 ≤ b && b ≤ 0x7A#8)

end Sys2Proof.Machine
end

