-- ==== Sys2Proof/Machine/Flags.lean ====
section
/-! DEFINITION. The type-code flags, the error codes and STATUS (spec/40_typecode.md R100 to R102,
spec/60_exceptions.md R201, spec/10_state.md R23). -/

namespace Sys2Proof.Machine

/-- `critical(t)`: bit 29, bit 5 of type byte 0, is 0 (R100). -/
def critical (t : Word) : Bool := !t.getLsbD 29

/-- `reserved_bit_valid(t)`: bit 13, bit 5 of type byte 2, is 0. The bit test alone (R101, 90_conflicts.md C3). -/
def reservedBitValid (t : Word) : Bool := !t.getLsbD 13

/-- `valid(t)` is `reserved_bit_valid(t)` (R102). -/
def typeValid (t : Word) : Bool := reservedBitValid t

/-- The code values of R201. -/
def ErrCode.code : ErrCode → BitVec 4
  | .none => 0#4
  | .invalidFormat => 1#4
  | .integrity => 2#4
  | .truncated => 3#4
  | .encoding => 4#4
  | .noChunk => 5#4
  | .capacity => 6#4
  | .illegalCmd => 7#4

/-- A one-bit field at bit `k` of a register, the other bits 0. -/
def bitAt (k : Nat) (b : Bool) : Word := (BitVec.ofBool b).setWidth 32 <<< k

/-- STATUS as a read returns it: each field at its bits, reserved bits 0 (R23). -/
def State.status (s : State) : Word :=
  bitAt 0 s.busy ||| bitAt 1 s.chValid ||| bitAt 2 s.crcMatch
    ||| bitAt 4 (critical s.type) ||| bitAt 5 (reservedBitValid s.type) ||| bitAt 6 (typeValid s.type)
    ||| bitAt 8 (critical s.chType) ||| bitAt 9 (reservedBitValid s.chType) ||| bitAt 10 (typeValid s.chType)
    ||| (s.err.setWidth 32 <<< 16)

end Sys2Proof.Machine
end

