-- ==== Sys2Proof/Machine/Ops.lean ====
section
/-! DEFINITION. The named operations over the buffers and the registers, reporting an error (spec/60_exceptions.md R200,
R206), and the checks several commands share. -/

namespace Sys2Proof.Machine

/-! ## Buffers -/

/-- The canonical form: each address at most once, rising. Unlisted bytes have no value, so no entry can equal one. -/
abbrev Memory.wf (m : Memory) : Prop := m.Pairwise fun x y => x.1 < y.1

/-- Every written byte lies below `n`, the buffer's size. -/
abbrev Memory.below (m : Memory) (n : Nat) : Prop := ∀ c ∈ m, c.1 < n

/-- The byte at `a`, or `none` where it is unwritten (20_memory.md R56). -/
def Memory.read : Memory → Nat → Option Byte
  | [], _ => none
  | (c, x) :: m, a => if a = c then some x else Memory.read m a

/-- Write `b` at `a`: the byte is then written (20_memory.md R56). -/
def Memory.write : Memory → Nat → Byte → Memory
  | [], a, b => [(a, b)]
  | (c, x) :: m, a, b =>
    if a < c then (a, b) :: (c, x) :: m
    else if a = c then (a, b) :: m
    else (c, x) :: Memory.write m a b

/-- The `n` bytes from `a`, or `none` if one of them is unwritten: `MemRead` (00_scope.md R11). -/
def Memory.readN (m : Memory) : Nat → Nat → Option (List Byte)
  | _, 0 => some []
  | a, n + 1 =>
    match m.read a, Memory.readN m (a + 1) n with
    | some b, some bs => some (b :: bs)
    | _, _ => none

/-- The bytes of a sequence written from `a` on: `MemWrite` (00_scope.md R11). -/
def Memory.writeN : Memory → Nat → List Byte → Memory
  | m, _, [] => m
  | m, a, b :: bs => Memory.writeN (m.write a b) (a + 1) bs

/-! ## Registers -/

def State.setCmd (s : State) (v : Word) : State := { s with cmd := v }
def State.setArg0 (s : State) (v : Word) : State := { s with arg0 := v }
def State.setInLen (s : State) (v : Word) : State := { s with inLen := v }
def State.setType (s : State) (v : Word) : State := { s with type := v }
def State.setAcc (s : State) (v : Word) : State := { s with acc := v }
def State.setDecLen (s : State) (v : Word) : State := { s with decLen := v }
def State.setExpCrc (s : State) (v : Word) : State := { s with expCrc := v }
def State.setOutLen (s : State) (v : Word) : State := { s with outLen := v }
def State.setCrcMatch (s : State) (b : Bool) : State := { s with crcMatch := b }
def State.setBusy (s : State) (b : Bool) : State := { s with busy := b }
def State.setErr (s : State) (e : ErrCode) : State := { s with err := e.code }
def State.setPending (s : State) (ts : List HostTxn) : State := { s with pending := ts }
def State.setReply (s : State) (r : Option Reply) : State := { s with reply := r }

/-- The whole chunk slot in one step; the chunk is then live (10_state.md R29 to R32, 43_parse.md R164). -/
def State.setChunk (s : State) (len type off : Word) : State :=
  { s with chLen := len, chType := type, chOff := off, chValid := true }

/-- A host write to IBUF: the byte is written and no chunk is live (20_memory.md R55). -/
def State.writeIbuf (s : State) (i : Nat) (b : Byte) : State :=
  { s with ibuf := s.ibuf.write i b, chValid := false }

/-- CRC_OUT is a view of ACC (10_state.md R28). -/
def State.crcOut (s : State) : Word := s.acc ^^^ 0xFFFFFFFF#32

/-! ## How a command ends -/

/-- A command that succeeds: ERR <- NONE (60_exceptions.md R200). -/
def succeed (s : State) : Host.Outcome State Fault Refusal := .next (s.setErr .none)

/-- `raise E`, the block's equivalent of taking an exception: ERR is written, nothing is saved, no mode changes, control
goes nowhere (60_exceptions.md R200, R206). There is no return from it: the next command just runs (R207). -/
def raise (e : ErrCode) (s : State) : Host.Outcome State Fault Refusal := .next (s.setErr e)

/-- `MemRead(IBUF, a, n)`: the command goes on with the bytes, or faults on an unwritten one (20_memory.md R56). -/
def memRead (s : State) (a n : Nat) (k : List Byte → Host.Outcome State Fault Refusal) :
    Host.Outcome State Fault Refusal :=
  match s.ibuf.readN a n with
  | some bs => k bs
  | none => .fault .uninitialisedRead

/-- IN_LEN as a command takes it: CAPACITY when it exceeds IBUF_SIZE (60_exceptions.md R203). -/
def takeInLen (s : State) (k : Nat → Host.Outcome State Fault Refusal) : Host.Outcome State Fault Refusal :=
  if Config.ibufSize < s.inLen.toNat then raise .capacity s else k s.inLen.toNat

/-- NO_CHUNK when no chunk is live (60_exceptions.md R202). -/
def requireChunk (s : State) (k : Host.Outcome State Fault Refusal) : Host.Outcome State Fault Refusal :=
  if s.chValid then k else raise .noChunk s

/-- Apply `f` to the next state; a stop stays as it is. -/
def mapNext (f : State → State) : Host.Outcome State Fault Refusal → Host.Outcome State Fault Refusal
  | .next s => .next (f s)
  | .fault r => .fault r
  | .refused r => .refused r

end Sys2Proof.Machine
end

