-- ==== Sys2Proof/Machine/Crc.lean ====
section
/-! DEFINITION. The CRC-32 engine and its commands CRC_INIT and CRC_BYTE (spec/41_crc.md R120 to R126). The values of the
parameter set are marked in the spec as general knowledge (log entry 8). -/

namespace Sys2Proof.Machine

/-- The polynomial in reflected form (R120). -/
def crcPoly : Word := 0xEDB88320#32

/-- The initial value of the accumulator (R120). -/
def crcInitial : Word := 0xFFFFFFFF#32

/-- The final XOR (R120). -/
def crcFinalXor : Word := 0xFFFFFFFF#32

/-- One round of R121's loop: `if c[0] = 1: 0xEDB88320 XOR (c >> 1)`, else `c >> 1`. -/
def crcShift (c : Word) : Word := if c.getLsbD 0 then crcPoly ^^^ (c >>> 1) else c >>> 1

/-- `n` rounds. -/
def crcShifts : Nat → Word → Word
  | 0, c => c
  | n + 1, c => crcShifts n (crcShift c)

/-- `T[n]`, the CRC table (R121). -/
def crcTable (n : Byte) : Word := crcShifts 8 (zext32 n)

/-- `crc_step(acc, b)` by the table (R122). -/
def crcStep (acc : Word) (b : Byte) : Word :=
  crcTable ((acc ^^^ zext32 b).extractLsb' 0 8) ^^^ (acc >>> 8)

/-- `crc_step(acc, b)` bit by bit, the other form R123 allows. -/
def crcStepSerial (acc : Word) (b : Byte) : Word := crcShifts 8 (acc ^^^ zext32 b)

/-- `crc_fold(acc, s)` (R122). -/
def crcFold : Word → List Byte → Word
  | acc, [] => acc
  | acc, b :: bs => crcFold (crcStep acc b) bs

/-- `crc32(s)` (R122). -/
def crc32 (s : List Byte) : Word := crcFold crcInitial s ^^^ crcFinalXor

/-- CRC_INIT (R125). -/
def execCrcInit (s : State) : Host.Outcome State Fault Refusal := succeed (s.setAcc crcInitial)

/-- CRC_BYTE b (R126). -/
def execCrcByte (b : Byte) (s : State) : Host.Outcome State Fault Refusal :=
  succeed (s.setAcc (crcStep s.acc b))

end Sys2Proof.Machine
end

