-- ==== Sys2Proof/Machine/Chunk.lean ====
section
/-! DEFINITION. The chunk unit: CH_NEW, CH_CRC, ENCODE (spec/42_chunk.md R140 to R145). -/

namespace Sys2Proof.Machine

/-- The un-finalised CRC of type bytes and payload, from the initial value (R141, 41_crc.md R124). -/
def chunkAcc (type : Word) (payload : List Byte) : Word := crcFold crcInitial (bytes32 type ++ payload)

/-- `record(t, d)`, the wire record (R143). -/
def wireRecord (t : Word) (d : List Byte) : List Byte :=
  bytes32 (BitVec.ofNat 32 d.length) ++ bytes32 t ++ d ++ bytes32 (crc32 (bytes32 t ++ d))

/-- CH_NEW: the payload is a view of IBUF from 0 and is not read (R140). -/
def execChNew (s : State) : Host.Outcome State Fault Refusal :=
  takeInLen s fun _ => succeed (s.setChunk s.inLen s.type 0#32)

/-- CH_CRC (R142). -/
def execChCrc (s : State) : Host.Outcome State Fault Refusal :=
  requireChunk s <| memRead s s.chOff.toNat s.chLen.toNat fun d =>
    succeed (s.setAcc (chunkAcc s.chType d))

/-- The four MemWrites and the register writes of R144, for payload `d`. -/
def emitRecord (s : State) (d : List Byte) : State :=
  let n := s.chLen.toNat
  let a := chunkAcc s.chType d
  { s with
    acc := a
    obuf := (((s.obuf.writeN 0 (bytes32 s.chLen)).writeN 4 (bytes32 s.chType)).writeN 8 d).writeN (8 + n)
      (bytes32 (a ^^^ crcFinalXor))
    outLen := BitVec.ofNat 32 (n + 12) }

/-- ENCODE (R144). Its CAPACITY check stands as the rule has it; R145 says it cannot fire. -/
def execEncode (s : State) : Host.Outcome State Fault Refusal :=
  requireChunk s <|
    if Config.obufSize < s.chLen.toNat + 12 then raise .capacity s
    else memRead s s.chOff.toNat s.chLen.toNat fun d => succeed (emitRecord s d)

end Sys2Proof.Machine
end

