-- ==== Sys2Proof/Machine/Control.lean ====
section
/-! DEFINITION. NOP and the illegal command (spec/44_control.md R180, R181). -/

namespace Sys2Proof.Machine

/-- NOP: ERR <- NONE (R180). -/
def execNop (s : State) : Host.Outcome State Fault Refusal := succeed s

/-- An illegal command word: ERR <- ILLEGAL_CMD, a reported error, not a trap (R181, 60_exceptions.md R204). -/
def execIllegal (s : State) : Host.Outcome State Fault Refusal := raise .illegalCmd s

end Sys2Proof.Machine
end

