-- ==== Sys2Proof/Machine/Parse.lean ====
section
/-! DEFINITION. The frame parser: PARSE (spec/43_parse.md R160 to R167). -/

namespace Sys2Proof.Machine

/-- R165 from the type capture on, for a frame of payload length `len` that passed the truncation check: the CRC over type
and payload, the expected-CRC reader (R163) and the comparator (R164). -/
def parseBody (s : State) (len : Word) : Host.Outcome State Fault Refusal :=
  memRead s 4 4 fun t =>
    memRead s 8 len.toNat fun d =>
      let a := crcFold crcInitial (t ++ d)
      memRead s (8 + len.toNat) 4 fun e =>
        let s' := (s.setAcc a).setExpCrc (be32 e)
        if a ^^^ crcFinalXor ≠ be32 e then raise .integrity s'
        else succeed ((s'.setCrcMatch true).setChunk len (be32 t) 8#32)

/-- PARSE (R165): CRC_MATCH <- 0, CAPACITY, the length-field decoder (R161), the exact truncation check (R162), the rest. -/
def execParse (s : State) : Host.Outcome State Fault Refusal :=
  let s₀ := s.setCrcMatch false
  takeInLen s₀ fun n =>
    if n < 4 then raise .truncated s₀
    else memRead s₀ 0 4 fun l =>
      let len := be32 l
      let s₁ := s₀.setDecLen len
      if n < 12 + len.toNat then raise .truncated s₁ else parseBody s₁ len

end Sys2Proof.Machine
end

