-- ==== Sys2Proof/Machine/TypeCode.lean ====
section
/-! DEFINITION. The type-code unit: TC_RAW and TC_TEXT (spec/40_typecode.md R107, R108). Validity flags gate nothing
(R104). -/

namespace Sys2Proof.Machine

/-- TC_RAW: TYPE <- ARG0, any bytes (R107). -/
def execTcRaw (s : State) : Host.Outcome State Fault Refusal := succeed (s.setType s.arg0)

/-- TC_TEXT: CAPACITY, then the length, then the four bytes and their alphabet (R108). -/
def execTcText (s : State) : Host.Outcome State Fault Refusal :=
  takeInLen s fun n =>
    if n ≠ 4 then raise .invalidFormat s
    else memRead s 0 4 fun t =>
      if t.all alpha then succeed (s.setType (be32 t)) else raise .invalidFormat s

end Sys2Proof.Machine
end

