-- ==== Sys2Proof/Machine/Dispatch.lean ====
section
/-! DEFINITION. The meaning of each command, one arm per row of the opcode table (spec/30_encoding.md R71). -/

namespace Sys2Proof.Machine

def exec (i : Instr) (s : State) : Host.Outcome State Fault Refusal :=
  match i with
  | .nop => Sys2Proof.Machine.execNop s
  | .crcInit => Sys2Proof.Machine.execCrcInit s
  | .crcByte b => Sys2Proof.Machine.execCrcByte b s
  | .tcRaw => Sys2Proof.Machine.execTcRaw s
  | .tcText => Sys2Proof.Machine.execTcText s
  | .chNew => Sys2Proof.Machine.execChNew s
  | .chCrc => Sys2Proof.Machine.execChCrc s
  | .parse => Sys2Proof.Machine.execParse s
  | .encode => Sys2Proof.Machine.execEncode s

end Sys2Proof.Machine
end

