-- ==== Sys2Proof/Machine/Bus.lean ====
section
/-! DEFINITION. The host's transactions (spec/20_memory.md R51): register reads and writes (spec/10_state.md R24, R39, R40),
buffer accesses (spec/20_memory.md R55, R57, R58), Reset (spec/70_reset_and_hazards.md R220, R222), and the pseudo-operations
of the host syntax as transaction lists (spec/30_encoding.md R76, R77). -/

namespace Sys2Proof.Machine

/-- The register map (R22). -/
def registerMap : List (Nat × Reg) :=
  [(0x00, .cmd), (0x04, .arg0), (0x08, .status), (0x0C, .inLen), (0x10, .type), (0x14, .crcOut),
   (0x18, .chLen), (0x1C, .chType), (0x20, .chOff), (0x24, .decLen), (0x28, .expCrc), (0x2C, .outLen)]

/-- The register at an offset, if the offset is mapped (R22). -/
def regAt (o : Nat) : Option Reg := registerMap.lookup o

/-- The offset of a register (R22). -/
def Reg.offset : Reg → Nat
  | .cmd => 0x00
  | .arg0 => 0x04
  | .status => 0x08
  | .inLen => 0x0C
  | .type => 0x10
  | .crcOut => 0x14
  | .chLen => 0x18
  | .chType => 0x1C
  | .chOff => 0x20
  | .decLen => 0x24
  | .expCrc => 0x28
  | .outLen => 0x2C

/-- A register's value as a read returns it (R39); STATUS and CRC_OUT are computed (R23, R28). -/
def State.readReg (s : State) : Reg → Word
  | .cmd => s.cmd
  | .arg0 => s.arg0
  | .status => s.status
  | .inLen => s.inLen
  | .type => s.type
  | .crcOut => s.crcOut
  | .chLen => s.chLen
  | .chType => s.chType
  | .chOff => s.chOff
  | .decLen => s.decLen
  | .expCrc => s.expCrc
  | .outLen => s.outLen

/-! ## Running a command -/

/-- What a CMD write does before the command runs: CMD <- v, BUSY <- 1 (R24). -/
def startCommand (v : Word) (s : State) : State := (s.setCmd v).setBusy true

/-- BUSY returns to 0 when the command ends (R24, R38). -/
def endCommand (o : Host.Outcome State Fault Refusal) : Host.Outcome State Fault Refusal :=
  mapNext (fun s => s.setBusy false) o

/-- A CMD write of `v`: the command `v` encodes, or the illegal-command rule, inside the same step (R24, R51). -/
def runCommand (v : Word) (s : State) : Host.Outcome State Fault Refusal :=
  match decode v with
  | .ok i => endCommand (exec i (startCommand v s))
  | .error _ => endCommand (execIllegal (startCommand v s))

/-! ## Register accesses -/

/-- A register access must be a whole aligned word at a mapped offset (R39, R59). Which fault names an access that breaks
both rules is a DESIGN CHOICE, log entry 4. -/
def withReg (o bytes : Nat) (k : Reg → Host.Outcome State Fault Refusal) : Host.Outcome State Fault Refusal :=
  if bytes = 4 ∧ o % 4 = 0 then
    match regAt o with
    | some r => k r
    | none => .fault (.hostProtocol .unmappedRegister)
  else .fault (.hostProtocol .subwordAccess)

/-- RegRead: the register's value, no side effect (R39). -/
def hostRegRead (o bytes : Nat) (s : State) : Host.Outcome State Fault Refusal :=
  withReg o bytes fun r => .next (s.setReply (some (.word (s.readReg r))))

/-- RegWrite to a register: CMD runs a command, ARG0 and IN_LEN are set, a write to a read-only register is ignored
(R24, R40). -/
def writeReg (r : Reg) (v : Word) (s : State) : Host.Outcome State Fault Refusal :=
  match r with
  | .cmd => runCommand v s
  | .arg0 => .next (s.setArg0 v)
  | .inLen => .next (s.setInLen v)
  | .status => .next s
  | .type => .next s
  | .crcOut => .next s
  | .chLen => .next s
  | .chType => .next s
  | .chOff => .next s
  | .decLen => .next s
  | .expCrc => .next s
  | .outLen => .next s

/-- RegWrite (R40). -/
def hostRegWrite (o bytes : Nat) (v : Word) (s : State) : Host.Outcome State Fault Refusal :=
  withReg o bytes fun r => writeReg r v (s.setReply none)

/-! ## Buffer accesses -/

/-- IbufWrite (20_memory.md R55). -/
def hostIbufWrite (i : Nat) (b : Byte) (s : State) : Host.Outcome State Fault Refusal :=
  if Config.ibufSize ≤ i then .fault (.hostProtocol .ibufOutOfRange)
  else .next ((s.writeIbuf i b).setReply none)

/-- A host read of one buffer byte: its value, or the fault of an unwritten byte (20_memory.md R56). -/
def hostReadByte (m : Memory) (i : Nat) (s : State) : Host.Outcome State Fault Refusal :=
  match m.read i with
  | some b => .next (s.setReply (some (.byte b)))
  | none => .fault .uninitialisedRead

/-- IbufRead (20_memory.md R58). -/
def hostIbufRead (i : Nat) (s : State) : Host.Outcome State Fault Refusal :=
  if Config.ibufSize ≤ i then .fault (.hostProtocol .ibufOutOfRange) else hostReadByte s.ibuf i s

/-- ObufRead (20_memory.md R57). -/
def hostObufRead (i : Nat) (s : State) : Host.Outcome State Fault Refusal :=
  if Config.obufSize ≤ i then .fault (.hostProtocol .obufOutOfRange) else hostReadByte s.obuf i s

/-- Reset: the state of R220; the host's later transactions stay (log entry 2). -/
def hostReset (s : State) : Host.Outcome State Fault Refusal := .next (State.reset.setPending s.pending)

/-! ## One transaction -/

/-- What the host may do while BUSY = 1: read STATUS (R38, R225) and reset the block (R222; log entry 5). -/
def HostTxn.allowedWhileBusy : HostTxn → Bool
  | .regRead o bytes => o == 0x08 && bytes == 4
  | .regWrite _ _ _ => false
  | .ibufWrite _ _ => false
  | .ibufRead _ => false
  | .obufRead _ => false
  | .reset => true

/-- One host transaction, one atomic step (R51, R60). -/
def transact (t : HostTxn) (s : State) : Host.Outcome State Fault Refusal :=
  if s.busy && !t.allowedWhileBusy then .fault (.hostProtocol .busyAccess)
  else match t with
    | .regRead o bytes => hostRegRead o bytes s
    | .regWrite o bytes v => hostRegWrite o bytes v s
    | .ibufWrite i b => hostIbufWrite i b s
    | .ibufRead i => hostIbufRead i s
    | .obufRead i => hostObufRead i s
    | .reset => hostReset s

/-- The next pending transaction, in the host's order (R64). With none pending nothing changes (R51; log entry 2). -/
def busStep (s : State) : Host.Outcome State Fault Refusal :=
  match s.pending with
  | [] => .next s
  | t :: ts => transact t (s.setPending ts)

/-- Several transactions, one after another, up to the first fault (R64). -/
def transactAll : List HostTxn → State → Host.Outcome State Fault Refusal
  | [], s => .next s
  | t :: ts, s =>
    match transact t s with
    | .next s' => transactAll ts s'
    | .fault r => .fault r
    | .refused r => .refused r

/-! ## The host syntax (30_encoding.md R76, R77) -/

/-- A command mnemonic assembles to `WR CMD, <word>` (R76). -/
def asm (i : Instr) : HostTxn := .regWrite 0x00 4 (encode i)

/-- `WR <reg>, <value>` (R76). -/
def wr (r : Reg) (v : Word) : HostTxn := .regWrite r.offset 4 v

/-- `RD <reg>` (R76). -/
def rd (r : Reg) : HostTxn := .regRead r.offset 4

/-- `IBW i, b; IBW i+1, b'; ...`. -/
def ibwFrom : Nat → List Byte → List HostTxn
  | _, [] => []
  | i, b :: bs => .ibufWrite i b :: ibwFrom (i + 1) bs

/-- `WAIT`: in the atomic model one `RD STATUS` (R77). -/
def waitOp : List HostTxn := [rd .status]

/-- `LOAD [b0, ..., b(k-1)]` (R77). -/
def loadOp (bs : List Byte) : List HostTxn := ibwFrom 0 bs ++ [wr .inLen (BitVec.ofNat 32 bs.length)]

/-- `LOADTEXT "s"`: LOAD of the ASCII bytes of `s` (R77). -/
def loadTextOp (s : String) : List HostTxn := loadOp (s.toList.map fun c => BitVec.ofNat 8 c.toNat)

/-- `TYPE_RAW w` (R77). -/
def typeRawOp (w : Word) : List HostTxn := [wr .arg0 w, asm .tcRaw]

/-- `CRC_BYTES [b0, ..., b(k-1)]` (R77). -/
def crcBytesOp (bs : List Byte) : List HostTxn := asm .crcInit :: bs.map fun b => asm (.crcByte b)

/-- `OBR i` then `IBW i, <that byte>`; where the byte is unwritten the OBR faults and no IBW follows (R77). -/
def copyByte (s : State) (i : Nat) : List HostTxn :=
  match s.obuf.read i with
  | some b => [.obufRead i, .ibufWrite i b]
  | none => [.obufRead i]

/-- `COPYBACK`, as the host issues it when it finds the block in state `s` (R77). -/
def copybackOp (s : State) : List HostTxn :=
  (List.range s.outLen.toNat).flatMap (copyByte s) ++ [wr .inLen s.outLen]

end Sys2Proof.Machine
end

