-- ==== Sys2Proof/Machine/Step.lean ====
section
/-! DEFINITION. One step: the next transaction the host has pending (spec/10_state.md R21, spec/20_memory.md R51). The block
fetches nothing; a command comes to it as a CMD write (log entry 2). -/

namespace Sys2Proof.Machine

/-- One step of the model is one host transaction (R51). -/
def step (s : State) : Host.Outcome State Fault Refusal := busStep s

/-- The host issues, as its next transaction, the CMD write of the command whose bits are `w`; BUSY is 0, as that write
needs (R225). -/
def State.withFetchWord (s : State) (nbits w : Nat) : State :=
  (s.setBusy false).setPending (.regWrite 0x00 4 (BitVec.ofNat 32 (w % 2 ^ nbits)) :: s.pending)

end Sys2Proof.Machine
end

