-- ==== Sys2Proof/Safety.lean ====
section
/-! DEFINITION. What the claims call a good state and a complete input: the invariants of the reachable states
(spec/10_state.md R41, spec/60_exceptions.md R201, spec/43_parse.md R164) and the bytes a command reads
(spec/20_memory.md R61). -/

namespace Sys2Proof.Machine

/-- The error codes some command produces: all named codes but the reserved ENCODING (60_exceptions.md R201, U11). -/
def producedErrs : List (BitVec 4) := [0#4, 1#4, 2#4, 3#4, 5#4, 6#4, 7#4]

/-- The invariant of the reachable states between transactions. -/
structure State.Inv (s : State) : Prop where
  /-- IBUF is in canonical form, inside its size (20_memory.md R50). -/
  ibufWf : s.ibuf.wf
  ibufBelow : s.ibuf.below Config.ibufSize
  /-- OBUF likewise. -/
  obufWf : s.obuf.wf
  obufBelow : s.obuf.below Config.obufSize
  /-- BUSY is 0 between transactions (10_state.md R38). -/
  idle : s.busy = false
  /-- No reserved error code (60_exceptions.md R201). -/
  errProduced : s.err ∈ producedErrs
  /-- The chunk-slot invariant (10_state.md R41 a, b). -/
  chunkFits : s.chValid = true → s.chOff.toNat + s.chLen.toNat ≤ Config.ibufSize
  chunkOff : s.chValid = true → s.chOff = 0#32 ∨ s.chOff = 8#32
  /-- The record OUT_LEN speaks of lies in OBUF and is written (10_state.md R35). -/
  outFits : s.outLen.toNat ≤ Config.obufSize
  outWritten : ∀ a, a < s.outLen.toNat → (s.obuf.read a).isSome

/-- A live chunk at offset 8 came from PARSE, and IBUF still holds its frame: length field, type, payload and matching
CRC, with DEC_LEN and EXP_CRC those of that frame (43_parse.md R164, 10_state.md R41 c). -/
def State.ParsedFrame (s : State) : Prop :=
  s.chValid = true → s.chOff = 8#32 →
    ∃ d, s.ibuf.readN 0 4 = some (bytes32 s.chLen)
      ∧ s.ibuf.readN 4 4 = some (bytes32 s.chType)
      ∧ s.ibuf.readN 8 s.chLen.toNat = some d
      ∧ s.ibuf.readN (8 + s.chLen.toNat) 4 = some (bytes32 (crc32 (bytes32 s.chType ++ d)))
      ∧ s.decLen = s.chLen
      ∧ s.expCrc = crc32 (bytes32 s.chType ++ d)

/-- The bytes `IBUF[a .. a+n-1]` are all written. -/
def State.Written (s : State) (a n : Nat) : Prop := ∀ k, k < n → (s.ibuf.read (a + k)).isSome

/-- Every IBUF byte the command reads is written (20_memory.md R61, 70_reset_and_hazards.md R224). -/
def InputsWritten (i : Instr) (s : State) : Prop :=
  match i with
  | .nop => True
  | .crcInit => True
  | .crcByte _ => True
  | .tcRaw => True
  | .tcText => s.inLen.toNat = 4 → s.Written 0 4
  | .chNew => True
  | .chCrc => s.chValid = true → s.Written s.chOff.toNat s.chLen.toNat
  | .parse =>
    4 ≤ s.inLen.toNat → s.inLen.toNat ≤ Config.ibufSize →
      s.Written 0 4 ∧ ∀ l, s.ibuf.readN 0 4 = some l →
        12 + (be32 l).toNat ≤ s.inLen.toNat → s.Written 4 (8 + (be32 l).toNat)
  | .encode =>
    s.chValid = true → s.chLen.toNat + 12 ≤ Config.obufSize → s.Written s.chOff.toNat s.chLen.toNat

/-- The errors a command can report (60_exceptions.md R201). -/
def errorsOf (i : Instr) : List (BitVec 4) :=
  match i with
  | .nop => []
  | .crcInit => []
  | .crcByte _ => []
  | .tcRaw => []
  | .tcText => [6#4, 1#4]
  | .chNew => [6#4]
  | .chCrc => [5#4]
  | .parse => [6#4, 3#4, 2#4]
  | .encode => [5#4]

/-- One step of the machine when `t` is the transaction the host issues next, before those still pending. -/
def issue (t : HostTxn) (s : State) : Host.Outcome State Fault Refusal := step { s with pending := t :: s.pending }

/-- `k` steps, up to the first stop. -/
def runSteps : Nat → State → Host.Outcome State Fault Refusal
  | 0, s => .next s
  | k + 1, s =>
    match step s with
    | .next s' => runSteps k s'
    | .fault r => .fault r
    | .refused r => .refused r

/-- An upper-case ASCII letter (40_typecode.md R103). -/
def UpperLetter (b : Byte) : Prop := 0x41 ≤ b.toNat ∧ b.toNat ≤ 0x5A

/-- An ASCII letter (40_typecode.md R103). -/
def Letter (b : Byte) : Prop := UpperLetter b ∨ (0x61 ≤ b.toNat ∧ b.toNat ≤ 0x7A)

end Sys2Proof.Machine
end

