-- ==== Sys2Proof/Certificates/Slice0/Obligations.lean ====
section
/-! DEFINITION. The statements for the provers. Next states are written out as record updates, so each equation is also the
command's frame: what it does not name is unchanged. -/

open Sys2Proof Sys2Proof.Machine

/-! ## Encoding -/

/-- Words written out from the opcode map (R71) and the corner cases of R181, and what they decode to. -/
def Obligations.SampleWordsDecodeAsTheMapSays : Prop :=
  decode 0x00000000#32 = .ok .nop ∧ decode 0x00000001#32 = .ok .crcInit
    ∧ decode 0x00004102#32 = .ok (.crcByte 0x41#8) ∧ decode 0x0000FF02#32 = .ok (.crcByte 0xFF#8)
    ∧ decode 0x00000010#32 = .ok .tcRaw ∧ decode 0x00000011#32 = .ok .tcText
    ∧ decode 0x00000020#32 = .ok .chNew ∧ decode 0x00000021#32 = .ok .chCrc
    ∧ decode 0x00000030#32 = .ok .parse ∧ decode 0x00000040#32 = .ok .encode
    ∧ decode 0x00000003#32 = .error .opcodeUnassigned ∧ decode 0x00000101#32 = .error .immNonzero
    ∧ decode 0x00010000#32 = .error .reservedNonzero ∧ decode 0xFFFFFFFF#32 = .error .reservedNonzero

/-- A word decodes to a command exactly when it is that command's word: no bit of an encoding is dropped, and no second
word stands for a command (R71, R73). -/
def Obligations.DecodeIsTheInverseOfEncode : Prop :=
  ∀ (v : Word) (i : Instr), decode v = .ok i ↔ v = encode i

/-- R71's matching rule: at most one row of the opcode map matches a word, and the decoder reads the command of the row
that matches. -/
def Obligations.AtMostOneOpcodeRowMatches : Prop :=
  (∀ (v : Word) (r r' : OpcodeRow), r ∈ opcodeTable → r' ∈ opcodeTable →
      v &&& r.mask = r.pattern → v &&& r'.mask = r'.pattern → r = r')
    ∧ ∀ (v : Word) (r : OpcodeRow), r ∈ opcodeTable → v &&& r.mask = r.pattern →
      ∃ i, decode v = .ok i ∧ i.mnemonic = r.mnemonic

/-- R73, R74: a word is illegal exactly when its reserved field is not 0, its opcode is unassigned, or it has an IMM8 that
is not 0 with an opcode other than CRC_BYTE's; 247 opcode values are unassigned. -/
def Obligations.IllegalWordsAreThoseTheDecodeRuleNames : Prop :=
  (∀ v : Word, (∃ e, decode v = .error e) ↔
      v.toNat / 65536 ≠ 0 ∨ v.toNat % 256 ∉ [0x00, 0x01, 0x02, 0x10, 0x11, 0x20, 0x21, 0x30, 0x40]
        ∨ (v.toNat % 256 ≠ 0x02 ∧ v.toNat / 256 % 256 ≠ 0))
    ∧ ((List.range 256).filter fun op => !assignedOps.contains (BitVec.ofNat 8 op)).length = 247

/-! ## Steps and host transactions -/

/-- A step runs the decoded command: when the next pending transaction is a CMD write of a legal word, and no command is in
progress, the step is exec of that command at the state in which CMD holds the word and BUSY is 1, with BUSY back at 0 in
the next state. A fault of the command is the step's fault. The same for the word `withFetchWord` places. -/
def Obligations.StepRunsTheDecodedCommand : Prop :=
  (∀ (s : State) (ts : List HostTxn) (v : Word) (i : Instr),
    s.busy = false → s.pending = .regWrite 0x00 4 v :: ts → decode v = .ok i →
      step s = match exec i { s with cmd := v, busy := true, pending := ts, reply := none } with
        | .next t => .next { t with busy := false }
        | .fault f => .fault f
        | .refused r => .refused r)
    ∧ ∀ (s : State) (i : Instr),
      step (s.withFetchWord 32 (encode i).toNat)
        = match exec i { s with cmd := encode i, busy := true, reply := none } with
          | .next t => .next { t with busy := false }
          | .fault f => .fault f
          | .refused r => .refused r

/-- R24: a CMD write stores the word whatever it encodes, and BUSY is 0 when the command has ended; a CMD read then returns
that word, and 0 after reset. -/
def Obligations.CmdHoldsTheLastWordWritten : Prop :=
  (∀ (s s' : State) (v : Word), s.busy = false → issue (.regWrite 0x00 4 v) s = .next s' →
      s'.cmd = v ∧ s'.busy = false
        ∧ issue (.regRead 0x00 4) s' = .next { s' with reply := some (.word v) })
    ∧ issue (.regRead 0x00 4) State.reset = .next { State.reset with reply := some (.word 0#32) }

/-- R181: an illegal word reports ILLEGAL_CMD and changes nothing else; CMD still reads back the word. -/
def Obligations.IllegalCommandReportsOnlyIllegalCmd : Prop :=
  (∀ (s : State) (v : Word) (e : IllegalWord), s.busy = false → decode v = .error e →
      issue (.regWrite 0x00 4 v) s = .next { s with cmd := v, err := 7#4, reply := none })
    ∧ ∀ v ∈ [0x00000003#32, 0x00000101#32, 0x00010000#32, 0xFFFFFFFF#32], ∃ e, decode v = .error e

/-- The host's transactions take effect one at a time in the order it issues them (R64): stepping through the pending list
is running it transaction by transaction. What an idle step does is the model's choice (log entry 2). -/
def Obligations.StepsTakeTransactionsInHostOrder : Prop :=
  (∀ (s : State) (ts : List HostTxn), s.pending = [] →
      runSteps ts.length { s with pending := ts } = transactAll ts s)
    ∧ ∀ s : State, s.pending = [] → step s = .next s

/-- R220, R222: Reset leaves every register and the internal state at the reset value, every IBUF and OBUF byte unwritten,
and STATUS reading 0x00000770. That it does so also from a state with BUSY = 1 is the model's choice, log entry 5 (DEDUCED:
R222 read against R225 and R210). -/
def Obligations.ResetLeavesTheResetState : Prop :=
  ∀ s : State, ∃ s', issue .reset s = .next s'
    ∧ s'.cmd = 0#32 ∧ s'.arg0 = 0#32 ∧ s'.inLen = 0#32 ∧ s'.type = 0#32 ∧ s'.chLen = 0#32 ∧ s'.chType = 0#32
    ∧ s'.chOff = 0#32 ∧ s'.decLen = 0#32 ∧ s'.expCrc = 0#32 ∧ s'.outLen = 0#32
    ∧ s'.acc = 0xFFFFFFFF#32 ∧ s'.crcOut = 0#32 ∧ s'.chValid = false ∧ s'.crcMatch = false ∧ s'.err = 0#4
    ∧ s'.busy = false ∧ s'.status = 0x00000770#32
    ∧ (∀ a, s'.ibuf.read a = none) ∧ (∀ a, s'.obuf.read a = none)

/-- R221: straight after reset CH_CRC and ENCODE report NO_CHUNK, the flags of TYPE read 1, CH_NEW builds an empty chunk
with type 0, and a byte fed without CRC_INIT gives the CRC that CRC_INIT first would give. -/
def Obligations.CommandsStraightAfterReset : Prop :=
  exec .chCrc State.reset = .next { State.reset with err := 5#4 }
    ∧ exec .encode State.reset = .next { State.reset with err := 5#4 }
    ∧ critical State.reset.type = true ∧ reservedBitValid State.reset.type = true
    ∧ typeValid State.reset.type = true
    ∧ exec .chNew State.reset = .next { State.reset with chValid := true }
    ∧ ∀ bs, ∃ s' s'', transactAll (bs.map fun b => asm (.crcByte b)) State.reset = .next s'
      ∧ transactAll (crcBytesOp bs) State.reset = .next s''
      ∧ s'.crcOut = crc32 bs ∧ s''.crcOut = s'.crcOut

/-- R39: a whole-word read of a mapped offset returns the register's value and changes nothing else; an unmapped offset and
a sub-word access fault. Where an access is both, the rule names both faults (log entry 4). -/
def Obligations.RegisterReadReturnsTheRegister : Prop :=
  ∀ s : State, s.busy = false →
    (∀ p ∈ [(0x00, s.cmd), (0x04, s.arg0), (0x08, s.status), (0x0C, s.inLen), (0x10, s.type),
        (0x14, s.acc ^^^ 0xFFFFFFFF#32), (0x18, s.chLen), (0x1C, s.chType), (0x20, s.chOff),
        (0x24, s.decLen), (0x28, s.expCrc), (0x2C, s.outLen)],
      issue (.regRead p.1 4) s = .next { s with reply := some (.word p.2) })
    ∧ ∀ o bytes : Nat,
      (bytes = 4 → o % 4 = 0 → 0x2C < o → issue (.regRead o bytes) s = .fault (.hostProtocol .unmappedRegister))
      ∧ (bytes ≠ 4 → o % 4 = 0 → o ≤ 0x2C → issue (.regRead o bytes) s = .fault (.hostProtocol .subwordAccess))
      ∧ ((bytes ≠ 4 ∧ 0x2C < o) ∨ o % 4 ≠ 0 →
        issue (.regRead o bytes) s = .fault (.hostProtocol .subwordAccess)
          ∨ issue (.regRead o bytes) s = .fault (.hostProtocol .unmappedRegister))

/-- R40: a write to ARG0 or IN_LEN sets that register alone, a write to a read-only register changes nothing (ERR
included), and the faults are those of a read. A write to CMD is R24's. -/
def Obligations.RegisterWriteSetsOnlyArg0OrInLen : Prop :=
  ∀ (s : State) (v : Word), s.busy = false →
    issue (.regWrite 0x04 4 v) s = .next { s with arg0 := v, reply := none }
    ∧ issue (.regWrite 0x0C 4 v) s = .next { s with inLen := v, reply := none }
    ∧ (∀ o ∈ [0x08, 0x10, 0x14, 0x18, 0x1C, 0x20, 0x24, 0x28, 0x2C],
        issue (.regWrite o 4 v) s = .next { s with reply := none })
    ∧ ∀ o bytes : Nat,
      (bytes = 4 → o % 4 = 0 → 0x2C < o → issue (.regWrite o bytes v) s = .fault (.hostProtocol .unmappedRegister))
      ∧ (bytes ≠ 4 → o % 4 = 0 → o ≤ 0x2C → issue (.regWrite o bytes v) s = .fault (.hostProtocol .subwordAccess))
      ∧ ((bytes ≠ 4 ∧ 0x2C < o) ∨ o % 4 ≠ 0 →
        issue (.regWrite o bytes v) s = .fault (.hostProtocol .subwordAccess)
          ∨ issue (.regWrite o bytes v) s = .fault (.hostProtocol .unmappedRegister))

/-- R23: every bit of STATUS, as a read returns it. -/
def Obligations.StatusBitsAreTheTable : Prop :=
  ∀ s : State, s.busy = false →
    issue (.regRead 0x08 4) s = .next { s with reply := some (.word s.status) }
    ∧ ∀ k : Nat, s.status.getLsbD k =
      if k = 0 then s.busy
      else if k = 1 then s.chValid
      else if k = 2 then s.crcMatch
      else if k = 4 then !s.type.getLsbD 29
      else if k = 5 then !s.type.getLsbD 13
      else if k = 6 then !s.type.getLsbD 13
      else if k = 8 then !s.chType.getLsbD 29
      else if k = 9 then !s.chType.getLsbD 13
      else if k = 10 then !s.chType.getLsbD 13
      else if 16 ≤ k ∧ k ≤ 19 then s.err.getLsbD (k - 16)
      else false

/-- R55: an IBUF write out of range faults; in range it writes that byte alone and ends the live chunk, wherever the byte
lies. -/
def Obligations.IbufWriteWritesOneByteAndEndsTheChunk : Prop :=
  ∀ (s : State) (i : Nat) (b : Byte), s.busy = false →
    (Config.ibufSize ≤ i → issue (.ibufWrite i b) s = .fault (.hostProtocol .ibufOutOfRange))
    ∧ (i < Config.ibufSize → ∃ m, issue (.ibufWrite i b) s
          = .next { s with ibuf := m, chValid := false, reply := none }
        ∧ m.read i = some b ∧ ∀ j, j ≠ i → m.read j = s.ibuf.read j)

/-- R58: an IBUF read out of range faults, an unwritten byte faults, and otherwise the byte is returned and no state but
the host's reply changes, CH_VALID included. -/
def Obligations.IbufReadReturnsTheByte : Prop :=
  ∀ (s : State) (i : Nat), s.busy = false →
    (Config.ibufSize ≤ i → issue (.ibufRead i) s = .fault (.hostProtocol .ibufOutOfRange))
    ∧ (i < Config.ibufSize → s.ibuf.read i = none → issue (.ibufRead i) s = .fault .uninitialisedRead)
    ∧ ∀ b, i < Config.ibufSize → s.ibuf.read i = some b →
      issue (.ibufRead i) s = .next { s with reply := some (.byte b) }

/-- R57: an OBUF read returns the byte or faults like R58's, and a byte keeps its value until an ENCODE overwrites it or a
reset: other transactions leave OBUF alone, and an ENCODE leaves the bytes past its record alone. -/
def Obligations.ObufBytesStayUntilEncodeOrReset : Prop :=
  (∀ (s : State) (i : Nat), s.busy = false →
    (Config.obufSize ≤ i → issue (.obufRead i) s = .fault (.hostProtocol .obufOutOfRange))
    ∧ (i < Config.obufSize → s.obuf.read i = none → issue (.obufRead i) s = .fault .uninitialisedRead)
    ∧ ∀ b, i < Config.obufSize → s.obuf.read i = some b →
      issue (.obufRead i) s = .next { s with reply := some (.byte b) })
    ∧ ∀ (s s' : State) (t : HostTxn) (a : Nat), issue t s = .next s' → t ≠ .reset →
      t ≠ .regWrite 0x00 4 (encode .encode) ∨ s.chLen.toNat + 12 ≤ a → s'.obuf.read a = s.obuf.read a

/-- R225: while BUSY = 1 a transaction other than a STATUS read and Reset faults, and from a state of the invariant no step
faults so. The model's choices: that the fault is BusyAccess also where the access breaks another rule (a sub-word STATUS
read, an unmapped offset, an index out of range) is log entry 4, DESIGN CHOICE; that Reset goes through is log entry 5,
DEDUCED. -/
def Obligations.BusyAccessFaultsAndIsUnreachable : Prop :=
  (∀ (s : State) (t : HostTxn), s.busy = true → t ≠ .reset → t ≠ .regRead 0x08 4 →
      issue t s = .fault (.hostProtocol .busyAccess))
    ∧ (∀ s : State, issue (.regRead 0x08 4) s = .next { s with reply := some (.word s.status) })
    ∧ ∀ s : State, s.Inv → step s ≠ .fault (.hostProtocol .busyAccess)

/-! ## Control -/

/-- R180: NOP clears ERR and touches nothing else. -/
def Obligations.NopOnlyClearsErr : Prop :=
  decode 0x00000000#32 = .ok .nop ∧ ∀ s : State, exec .nop s = .next { s with err := 0#4 }

/-! ## CRC engine -/

/-- R125: CRC_INIT sets ACC to 0xFFFFFFFF, so that CRC_OUT reads 0, clears ERR and touches nothing else. -/
def Obligations.CrcInitRestartsTheEngine : Prop :=
  decode 0x00000001#32 = .ok .crcInit
    ∧ ∀ s : State, exec .crcInit s = .next { s with acc := 0xFFFFFFFF#32, err := 0#4 }
      ∧ ∃ t, exec .crcInit s = .next t ∧ t.crcOut = 0#32 ∧ crc32 [] = 0#32

/-- R126: CRC_BYTE b moves ACC by one crc_step, clears ERR and touches nothing else; b = 0 is a data byte. -/
def Obligations.CrcByteFeedsOneByte : Prop :=
  (∀ b : Byte, decode (0x00000002#32 ||| (b.setWidth 32 <<< 8)) = .ok (.crcByte b))
    ∧ (∀ (s : State) (b : Byte), exec (.crcByte b) s
        = .next { s with
            acc := crcTable ((s.acc ^^^ zext32 b).extractLsb' 0 8) ^^^ (s.acc >>> 8)
            err := 0#4 })
    ∧ crcStep 0xFFFFFFFF#32 0x00#8 = 0x2DFD1072#32 ∧ crcStep 0xFFFFFFFF#32 0xFF#8 = 0x00FFFFFF#32
    ∧ crcStep 0x00000000#32 0x00#8 = 0x00000000#32

/-- R123: the table form and the bit-serial form of the CRC step are one function. -/
def Obligations.TableStepEqualsBitSerialStep : Prop :=
  ∀ (acc : Word) (b : Byte), crcStep acc b = crcStepSerial acc b

/-- R120, R121: the table's check entries, the check value of the parameter set and the source's worked example. -/
def Obligations.CrcKnownValues : Prop :=
  crcTable 0x00#8 = 0x00000000#32 ∧ crcTable 0x01#8 = 0x77073096#32 ∧ crcTable 0x02#8 = 0xEE0E612C#32
    ∧ crcTable 0x80#8 = 0xEDB88320#32 ∧ crcTable 0xFF#8 = 0x2D02EF8D#32
    ∧ crc32 ("123456789".toList.map fun c => BitVec.ofNat 8 c.toNat) = 0xCBF43926#32
    ∧ crc32 ("RuStThis is where your secret message will be!".toList.map fun c => BitVec.ofNat 8 c.toNat)
        = 0xABD1D84E#32

/-- R77, R122, R127 b: CRC_BYTES runs to a state whose CRC_OUT is the crc32 of its bytes and in which only ACC, CMD and
ERR (and the host's reply) have changed; feeding bytes in pieces is feeding them at once. -/
def Obligations.FeedingBytesComputesTheirCrc : Prop :=
  (∀ (acc : Word) (bs cs : List Byte), crcFold acc (bs ++ cs) = crcFold (crcFold acc bs) cs)
    ∧ ∀ (s : State) (bs : List Byte), s.busy = false → ∃ s', transactAll (crcBytesOp bs) s = .next s'
      ∧ s'.crcOut = crc32 bs
      ∧ s' = { s with acc := s'.acc, cmd := s'.cmd, err := 0#4, reply := none }

/-- R127 d for every error inside one byte, so for every single-bit error: the byte form follows from R121 and R122. -/
def Obligations.CrcDetectsEveryOneByteError : Prop :=
  ∀ (p q : List Byte) (b c : Byte), b ≠ c → crc32 (p ++ b :: q) ≠ crc32 (p ++ c :: q)

/-! ## Type-code unit -/

/-- R100, R101, R102: the flags as bits of the packed code and as bit 0x20 of type-code bytes 0 and 2. -/
def Obligations.TypeFlagsAreTheCaseBits : Prop :=
  ∀ t : Word,
    (critical t = true ↔ t.getLsbD 29 = false)
    ∧ (critical t = true ↔ typeByte t 0 &&& 0x20#8 = 0#8)
    ∧ (reservedBitValid t = true ↔ t.getLsbD 13 = false)
    ∧ (reservedBitValid t = true ↔ typeByte t 2 &&& 0x20#8 = 0#8)
    ∧ typeValid t = reservedBitValid t

/-- R11, R27, R52: `be32` and `bytes32` are inverse, `be32` is the big-endian sum, and type-code byte i is bytes32's. -/
def Obligations.WordsAndTheirBytesAgree : Prop :=
  (∀ v : Word, be32 (bytes32 v) = v ∧ bytes32 v = [typeByte v 0, typeByte v 1, typeByte v 2, typeByte v 3])
    ∧ ∀ a b c d : Byte, bytes32 (be32 [a, b, c, d]) = [a, b, c, d]
      ∧ (be32 [a, b, c, d]).toNat = a.toNat * 2 ^ 24 + b.toNat * 2 ^ 16 + c.toNat * 2 ^ 8 + d.toNat

/-- R107: TC_RAW copies ARG0 to TYPE, whatever the bytes, clears ERR and touches nothing else. -/
def Obligations.TcRawCopiesArg0 : Prop :=
  decode 0x00000010#32 = .ok .tcRaw
    ∧ ∀ s : State, exec .tcRaw s = .next { s with type := s.arg0, err := 0#4 }

/-- R108: every outcome of TC_TEXT. An IN_LEN other than 4 is reported before any byte is read. -/
def Obligations.TcTextLoadsFourLettersOrReports : Prop :=
  decode 0x00000011#32 = .ok .tcText
    ∧ ∀ s : State,
      (Config.ibufSize < s.inLen.toNat → exec .tcText s = .next { s with err := 6#4 })
      ∧ (s.inLen.toNat ≤ Config.ibufSize → s.inLen.toNat ≠ 4 → exec .tcText s = .next { s with err := 1#4 })
      ∧ (s.inLen.toNat = 4 → ¬ s.Written 0 4 → exec .tcText s = .fault .uninitialisedRead)
      ∧ ∀ a b c d : Byte, s.inLen.toNat = 4 → s.ibuf.readN 0 4 = some [a, b, c, d] →
        ((Letter a ∧ Letter b ∧ Letter c ∧ Letter d) →
          exec .tcText s = .next { s with type := be32 [a, b, c, d], err := 0#4 })
        ∧ (¬ (Letter a ∧ Letter b ∧ Letter c ∧ Letter d) → exec .tcText s = .next { s with err := 1#4 })

/-- R105: after a successful TC_TEXT, critical is "byte 0 is upper-case" and reserved-bit-valid is "byte 2 is
upper-case". -/
def Obligations.TextTypeFlagsAreUpperCase : Prop :=
  ∀ (s s' : State) (a b c d : Byte), exec .tcText s = .next s' → s'.err = 0#4 →
    s.ibuf.readN 0 4 = some [a, b, c, d] →
    (critical s'.type = true ↔ UpperLetter a) ∧ (reservedBitValid s'.type = true ↔ UpperLetter c)

/-! ## Chunk unit -/

/-- R140: both outcomes of CH_NEW. No payload byte is read and no type code is refused. -/
def Obligations.ChNewBuildsTheChunk : Prop :=
  decode 0x00000020#32 = .ok .chNew
    ∧ ∀ s : State,
      (Config.ibufSize < s.inLen.toNat → exec .chNew s = .next { s with err := 6#4 })
      ∧ (s.inLen.toNat ≤ Config.ibufSize →
        exec .chNew s
          = .next { s with chLen := s.inLen, chType := s.type, chOff := 0#32, chValid := true, err := 0#4 })

/-- R142: every outcome of CH_CRC; on success CRC_OUT is the CRC of the type bytes and the payload. -/
def Obligations.ChCrcComputesTheChunkCrc : Prop :=
  decode 0x00000021#32 = .ok .chCrc
    ∧ ∀ s : State,
      (s.chValid = false → exec .chCrc s = .next { s with err := 5#4 })
      ∧ (s.chValid = true → ¬ s.Written s.chOff.toNat s.chLen.toNat → exec .chCrc s = .fault .uninitialisedRead)
      ∧ ∀ d, s.chValid = true → s.ibuf.readN s.chOff.toNat s.chLen.toNat = some d →
        exec .chCrc s
          = .next { s with acc := crcFold 0xFFFFFFFF#32 (bytes32 s.chType ++ d), err := 0#4 }
        ∧ ∃ t, exec .chCrc s = .next t ∧ t.crcOut = crc32 (bytes32 s.chType ++ d)

/-- R143: the wire record of a payload shorter than 2^32 bytes has its fields where the layout puts them. -/
def Obligations.WireRecordHasTheFrameLayout : Prop :=
  ∀ (t : Word) (d : List Byte), d.length < 2 ^ 32 →
    (wireRecord t d).length = d.length + 12
    ∧ (be32 ((wireRecord t d).take 4)).toNat = d.length
    ∧ be32 (((wireRecord t d).drop 4).take 4) = t
    ∧ ((wireRecord t d).drop 8).take d.length = d
    ∧ be32 ((wireRecord t d).drop (8 + d.length)) = crc32 (bytes32 t ++ d)

/-- R144: every outcome of ENCODE. On success OBUF begins with the record, its other bytes are unchanged, CRC_OUT is the
record's CRC, and the chunk slot is unchanged. The CAPACITY clause is for states no run reaches (R145). -/
def Obligations.EncodeEmitsTheWireRecord : Prop :=
  decode 0x00000040#32 = .ok .encode
    ∧ ∀ s : State,
      (s.chValid = false → exec .encode s = .next { s with err := 5#4 })
      ∧ (s.chValid = true → Config.obufSize < s.chLen.toNat + 12 → exec .encode s = .next { s with err := 6#4 })
      ∧ (s.chValid = true → s.chLen.toNat + 12 ≤ Config.obufSize → ¬ s.Written s.chOff.toNat s.chLen.toNat →
        exec .encode s = .fault .uninitialisedRead)
      ∧ ∀ d, s.chValid = true → s.chLen.toNat + 12 ≤ Config.obufSize →
        s.ibuf.readN s.chOff.toNat s.chLen.toNat = some d →
        ∃ m, exec .encode s
            = .next { s with
                acc := crcFold 0xFFFFFFFF#32 (bytes32 s.chType ++ d)
                obuf := m
                outLen := BitVec.ofNat 32 (s.chLen.toNat + 12)
                err := 0#4 }
          ∧ m.readN 0 (s.chLen.toNat + 12) = some (wireRecord s.chType d)
          ∧ ∀ a, s.chLen.toNat + 12 ≤ a → m.read a = s.obuf.read a

/-- R145: in a state of the invariant ENCODE never reports CAPACITY, and the record's length fits OUT_LEN. -/
def Obligations.EncodeOfALiveChunkFits : Prop :=
  ∀ s s' : State, s.Inv → exec .encode s = .next s' →
    s'.err ≠ 6#4 ∧ (s.chValid = true → s.chLen.toNat + 12 ≤ Config.obufSize ∧ s.chLen.toNat + 12 < 2 ^ 32)

/-! ## Frame parser -/

/-- R162: PARSE reports TRUNCATED exactly when `n < 12 + L`, with no wrap, and at once when n < 4; then no chunk state,
ACC or EXP_CRC changes. -/
def Obligations.ParseTruncationCheckIsExact : Prop :=
  ∀ s : State,
    (s.inLen.toNat < 4 → exec .parse s = .next { s with crcMatch := false, err := 3#4 })
    ∧ ∀ l, 4 ≤ s.inLen.toNat → s.inLen.toNat ≤ Config.ibufSize → s.ibuf.readN 0 4 = some l →
      (s.inLen.toNat < 12 + (be32 l).toNat →
        exec .parse s = .next { s with crcMatch := false, decLen := be32 l, err := 3#4 })
      ∧ (12 + (be32 l).toNat ≤ s.inLen.toNat → ∀ s', exec .parse s = .next s' → s'.err ≠ 3#4)

/-- R163, R164: for a frame that is not truncated, EXP_CRC is the CRC field and ACC the CRC over type and data; the chunk
slot is written, whole, when they agree, and INTEGRITY is reported with no chunk state written when they do not. -/
def Obligations.ParseAcceptsIffTheCrcsAgree : Prop :=
  decode 0x00000030#32 = .ok .parse
    ∧ ∀ (s : State) (l t d e : List Byte), s.inLen.toNat ≤ Config.ibufSize →
      s.ibuf.readN 0 4 = some l → 12 + (be32 l).toNat ≤ s.inLen.toNat →
      s.ibuf.readN 4 4 = some t → s.ibuf.readN 8 (be32 l).toNat = some d →
      s.ibuf.readN (8 + (be32 l).toNat) 4 = some e →
      (crc32 (t ++ d) = be32 e →
        exec .parse s
          = .next { s with
              decLen := be32 l, acc := crcFold 0xFFFFFFFF#32 (t ++ d), expCrc := be32 e, crcMatch := true
              chLen := be32 l, chType := be32 t, chOff := 8#32, chValid := true, err := 0#4 })
      ∧ (crc32 (t ++ d) ≠ be32 e →
        exec .parse s
          = .next { s with
              decLen := be32 l, acc := crcFold 0xFFFFFFFF#32 (t ++ d), expCrc := be32 e, crcMatch := false
              err := 2#4 })

/-- R167 and R165's faults: CAPACITY is reported before anything is read, and a byte PARSE needs that is unwritten faults:
one of the length field, or, when the frame is not truncated, one of its other bytes. -/
def Obligations.ParseCapacityFirstAndUnwrittenBytesFault : Prop :=
  ∀ s : State,
    (Config.ibufSize < s.inLen.toNat → exec .parse s = .next { s with crcMatch := false, err := 6#4 })
    ∧ (4 ≤ s.inLen.toNat → s.inLen.toNat ≤ Config.ibufSize → ¬ s.Written 0 4 →
      exec .parse s = .fault .uninitialisedRead)
    ∧ ∀ l, s.inLen.toNat ≤ Config.ibufSize → s.ibuf.readN 0 4 = some l → 12 + (be32 l).toNat ≤ s.inLen.toNat →
      ¬ s.Written 4 (8 + (be32 l).toNat) → exec .parse s = .fault .uninitialisedRead

/-- R166: bytes past the frame are not read: PARSE of any slice that holds the same frame, whatever lies past it and
however much longer IN_LEN is, gives the same result. -/
def Obligations.ParseIgnoresTrailingBytes : Prop :=
  ∀ (s s' : State) (l : List Byte) (m : Memory) (n : Word),
    s.ibuf.readN 0 4 = some l → 12 + (be32 l).toNat ≤ s.inLen.toNat → s.inLen.toNat ≤ Config.ibufSize →
    12 + (be32 l).toNat ≤ n.toNat → n.toNat ≤ Config.ibufSize →
    (∀ a, a < 12 + (be32 l).toNat → m.read a = s.ibuf.read a) →
    exec .parse s = .next s' → exec .parse { s with ibuf := m, inLen := n } = .next { s' with ibuf := m, inLen := n }

/-- R168: one flipped bit of an accepted frame with no trailing bytes. In the type, the data or the CRC field it is
INTEGRITY; in the length field a longer length is TRUNCATED, and a shorter one is INTEGRITY unless the four bytes read as
the CRC happen to be the computed one. -/
def Obligations.OneFlippedBitIsReported : Prop :=
  ∀ (s s' : State) (a j : Nat) (b : Byte) (m : Memory),
    exec .parse s = .next s' → s'.err = 0#4 → s.inLen.toNat = 12 + s'.chLen.toNat →
    a < s.inLen.toNat → j < 8 → s.ibuf.read a = some b →
    m.read a = some (b ^^^ (1#8 <<< j)) → (∀ c, c ≠ a → m.read c = s.ibuf.read c) →
    ∃ t, exec .parse { s with ibuf := m } = .next t
      ∧ (4 ≤ a → t.err = 2#4)
      ∧ (a < 4 → m.readN 0 4 = some (bytes32 t.decLen) ∧ t.decLen ≠ s'.chLen
        ∧ (s'.chLen < t.decLen → t.err = 3#4)
        ∧ (t.decLen < s'.chLen →
          (t.err = 2#4 ∧ t.crcOut ≠ t.expCrc) ∨ (t.err = 0#4 ∧ t.crcOut = t.expCrc ∧ t.chLen = t.decLen)))

/-! ## Rules of the whole machine -/

/-- R201: in a state of the invariant each command ends in success or in one of the errors the table lets it raise. -/
def Obligations.CommandsReportOnlyTheirOwnErrors : Prop :=
  ∀ (i : Instr) (s s' : State), s.Inv → exec i s = .next s' → s'.err = 0#4 ∨ s'.err ∈ errorsOf i

/-- R206: a failing command writes ERR and nothing else, but for PARSE's diagnostics: CRC_MATCH <- 0 always, DEC_LEN when
it decoded a length, ACC and EXP_CRC for INTEGRITY alone. -/
def Obligations.FailingCommandWritesOnlyDiagnostics : Prop :=
  ∀ (i : Instr) (s s' : State), exec i s = .next s' → s'.err ≠ 0#4 →
    (i ≠ .parse → s' = { s with err := s'.err })
    ∧ (i = .parse →
      s' = { s with err := s'.err, crcMatch := false, decLen := s'.decLen, acc := s'.acc, expCrc := s'.expCrc }
      ∧ (s'.err ≠ 2#4 → s'.acc = s.acc ∧ s'.expCrc = s.expCrc)
      ∧ ((s.inLen.toNat < 4 ∨ Config.ibufSize < s.inLen.toNat) → s'.decLen = s.decLen)
      ∧ (4 ≤ s.inLen.toNat → s.inLen.toNat ≤ Config.ibufSize → s.ibuf.readN 0 4 = some (bytes32 s'.decLen)))

/-- The frame of every command (R25, R26, R27, R28, R29, R33, R34, R35, R36, R50): what only some commands write, the
others leave unchanged, every byte of IBUF and OBUF included. -/
def Obligations.EachRegisterHasItsWriters : Prop :=
  ∀ (i : Instr) (s s' : State), exec i s = .next s' →
    (s'.cmd = s.cmd ∧ s'.arg0 = s.arg0 ∧ s'.inLen = s.inLen ∧ s'.busy = s.busy
      ∧ s'.pending = s.pending ∧ s'.reply = s.reply)
    ∧ (∀ a, s'.ibuf.read a = s.ibuf.read a)
    ∧ (i ≠ .tcRaw → i ≠ .tcText → s'.type = s.type)
    ∧ (i ∈ [.nop, .tcRaw, .tcText, .chNew] → s'.acc = s.acc)
    ∧ (i ≠ .chNew → i ≠ .parse →
      s'.chLen = s.chLen ∧ s'.chType = s.chType ∧ s'.chOff = s.chOff ∧ s'.chValid = s.chValid)
    ∧ (i ≠ .parse → s'.decLen = s.decLen ∧ s'.expCrc = s.expCrc ∧ s'.crcMatch = s.crcMatch)
    ∧ (i ≠ .encode → s'.outLen = s.outLen ∧ ∀ a, s'.obuf.read a = s.obuf.read a)
    ∧ (i = .encode → ∀ a, s.chLen.toNat + 12 ≤ a → s'.obuf.read a = s.obuf.read a)

/-- R61, R224, R232: a command answers a next state exactly when every IBUF byte it reads is written, and otherwise faults
as an uninitialised read. -/
def Obligations.CommandsCompleteOnWrittenInputs : Prop :=
  ∀ (i : Instr) (s : State),
    (InputsWritten i s → ∃ s', exec i s = .next s')
    ∧ (¬ InputsWritten i s → exec i s = .fault .uninitialisedRead)

/-- R226, R41 c: a step after which some IBUF byte reads differently leaves no live chunk. -/
def Obligations.ChangingIbufEndsTheLiveChunk : Prop :=
  ∀ s s' : State, step s = .next s' → s'.chValid = true → ∀ a, s'.ibuf.read a = s.ibuf.read a

/-- No step is refused: every command and every transaction has a meaning (R51, R232). -/
def Obligations.NoStepIsRefused : Prop :=
  ∀ (s : State) (r : Refusal), step s ≠ .refused r

/-- The reset state meets the invariants. -/
def Obligations.ResetStateIsGood : Prop :=
  State.reset.Inv ∧ State.reset.ParsedFrame

/-- R41 and the other invariants of a good state: every step from a good state that answers a next state leads to a good
state. -/
def Obligations.EveryStepKeepsTheInvariant : Prop :=
  ∀ s s' : State, s.Inv → step s = .next s' → s'.Inv

/-- A live chunk that PARSE built keeps its verified frame in IBUF, with DEC_LEN and EXP_CRC its own, through every step
until it is no longer live (R164, R41 c). -/
def Obligations.EveryStepKeepsTheParsedFrame : Prop :=
  ∀ s s' : State, s.ParsedFrame → step s = .next s' → s'.ParsedFrame

/-- R142: for a live chunk that PARSE built, CH_CRC completes and CRC_OUT equals EXP_CRC. -/
def Obligations.ChCrcOfAParsedChunkIsExpCrc : Prop :=
  ∀ s : State, s.ParsedFrame → s.chValid = true → s.chOff = 8#32 →
    ∃ t, exec .chCrc s = .next t ∧ t.err = 0#4 ∧ t.crcOut = s.expCrc ∧ t.expCrc = s.expCrc

/-- R144: ENCODE of a chunk just obtained by PARSE completes and writes the bytes PARSE read. -/
def Obligations.EncodeRewritesTheParsedFrame : Prop :=
  ∀ s s' : State, exec .parse s = .next s' → s'.err = 0#4 →
    ∃ t, exec .encode s' = .next t ∧ t.err = 0#4 ∧ t.outLen.toNat = 12 + s'.chLen.toNat
      ∧ ∀ a, a < 12 + s'.chLen.toNat → t.obuf.read a = s.ibuf.read a

/-- R147: the round trip CH_NEW; ENCODE; COPYBACK; PARSE, as host transactions, for every type code and every payload whose
record fits IBUF. -/
def Obligations.EncodeThenParseIsTheSameChunk : Prop :=
  ∀ (s : State) (d : List Byte), s.busy = false → d.length + 12 ≤ Config.ibufSize →
    s.inLen.toNat = d.length → s.ibuf.readN 0 d.length = some d →
    ∃ s₁ s₂ s₃, transactAll [asm .chNew, asm .encode] s = .next s₁
      ∧ transactAll (copybackOp s₁) s₁ = .next s₂
      ∧ transactAll [asm .parse] s₂ = .next s₃
      ∧ s₃.err = 0#4 ∧ s₃.chValid = true ∧ s₃.chLen = s.inLen ∧ s₃.chType = s.type ∧ s₃.chOff = 8#32
      ∧ s₃.ibuf.readN 8 d.length = some d
      ∧ s₃.crcOut = crc32 (bytes32 s.type ++ d) ∧ s₃.expCrc = s₃.crcOut
      ∧ s₁.obuf.readN (8 + d.length) 4 = some (bytes32 s₃.expCrc)
end

