-- ==== Sys2Proof/Laws/Config.lean ====
section
/-! SUPPORT. The bounds R6 (spec/00_scope.md) sets on the parameters. -/

namespace Sys2Proof.Config

theorem ibufSize_ge : 12 ≤ ibufSize := by unfold ibufSize; omega

theorem ibufSize_le : ibufSize ≤ 2 ^ 32 - 13 := by
  have := ibufExtra.isLt; unfold ibufSize; omega

theorem obufSize_ge : ibufSize + 12 ≤ obufSize := by unfold obufSize; omega

theorem obufSize_le : obufSize ≤ 2 ^ 32 - 1 := by
  have h := obufExtra.isLt; have := ibufSize_le; unfold obufSize; omega

end Sys2Proof.Config
end

