-- ==== Sys2Proof/Laws/Memory.lean ====
section
/-! SUPPORT. The laws of the buffers: a read after a write, the bytes a write leaves alone, and the canonical form, which
every operation keeps. -/

namespace Sys2Proof.Machine

@[simp] theorem Memory.read_nil (a : Nat) : Memory.read [] a = none := rfl

theorem Memory.read_write (m : Memory) (a c : Nat) (b : Byte) :
    (m.write a b).read c = if c = a then some b else m.read c := by
  induction m with
  | nil => simp [write, read]
  | cons e m ih =>
    obtain ⟨d, x⟩ := e
    unfold write
    split
    · simp [read]
    · split
      · rename_i h; subst h; simp only [read]; split <;> simp_all
      · rename_i h; simp only [read, ih]; split <;> simp_all; omega

@[simp] theorem Memory.read_write_same (m : Memory) (a : Nat) (b : Byte) : (m.write a b).read a = some b := by
  simp [read_write]

theorem Memory.read_write_other (m : Memory) {a c : Nat} (b : Byte) (h : c ≠ a) :
    (m.write a b).read c = m.read c := by simp [read_write, h]

theorem Memory.mem_write {m : Memory} {a : Nat} {b : Byte} {e : Host.Cell} (h : e ∈ m.write a b) :
    e = (a, b) ∨ e ∈ m := by
  induction m with
  | nil => simpa [write] using h
  | cons d m ih =>
    unfold write at h
    split at h
    · simpa using h
    · split at h
      · simp only [List.mem_cons] at h ⊢; tauto
      · simp only [List.mem_cons] at h ⊢; tauto

/-- A write keeps the canonical form. -/
theorem Memory.wf_write {m : Memory} (h : m.wf) (a : Nat) (b : Byte) : (m.write a b).wf := by
  induction m with
  | nil => simp [write, wf]
  | cons d m ih =>
    obtain ⟨d, x⟩ := d
    obtain ⟨h₁, h₂⟩ := List.pairwise_cons.1 h
    unfold write
    split
    · rename_i hl
      refine List.pairwise_cons.2 ⟨fun e he => ?_, h⟩
      rcases List.mem_cons.1 he with rfl | he
      · exact hl
      · exact lt_trans hl (h₁ e he)
    · split
      · rename_i he; subst he; exact List.pairwise_cons.2 ⟨h₁, h₂⟩
      · refine List.pairwise_cons.2 ⟨fun e he => ?_, ih h₂⟩
        rcases mem_write he with rfl | he
        · exact (by omega : d < a)
        · exact h₁ e he

theorem Memory.below_write {m : Memory} {n a : Nat} (h : m.below n) (ha : a < n) (b : Byte) :
    (m.write a b).below n := fun _ he => (mem_write he).elim (fun h' => h' ▸ ha) (h _)

/-- A write of a sequence keeps the canonical form. -/
theorem Memory.wf_writeN {m : Memory} (h : m.wf) (a : Nat) (bs : List Byte) : (m.writeN a bs).wf := by
  induction bs generalizing m a with
  | nil => exact h
  | cons b bs ih => exact ih (wf_write h a b) _

theorem Memory.below_writeN {m : Memory} {n a : Nat} {bs : List Byte} (h : m.below n) (ha : a + bs.length ≤ n) :
    (m.writeN a bs).below n := by
  induction bs generalizing m a with
  | nil => exact h
  | cons b bs ih =>
    simp only [List.length_cons] at ha
    exact ih (below_write h (by omega) b) (by omega)

/-- What a byte reads as after a sequence is written. -/
theorem Memory.read_writeN (m : Memory) (a c : Nat) (bs : List Byte) :
    (m.writeN a bs).read c = if a ≤ c ∧ c < a + bs.length then bs[c - a]? else m.read c := by
  induction bs generalizing m a with
  | nil => simp only [writeN, List.length_nil]; split <;> first | omega | rfl
  | cons b bs ih =>
    rw [writeN, ih, read_write]
    simp only [List.length_cons]
    rcases Nat.lt_trichotomy c a with h | rfl | h
    · rw [if_neg (by omega), if_neg (by omega), if_neg (by omega)]
    · rw [if_neg (by omega), if_pos rfl, if_pos (by omega)]; simp
    · obtain ⟨k, rfl⟩ : ∃ k, c = a + 1 + k := ⟨c - (a + 1), by omega⟩
      by_cases hk : k < bs.length
      · rw [if_pos (by omega), if_pos (by omega), show a + 1 + k - a = k + 1 by omega]; simp
      · rw [if_neg (by omega), if_neg (by omega), if_neg (by omega)]

theorem Memory.read_writeN_outside (m : Memory) {a c : Nat} (bs : List Byte) (h : c < a ∨ a + bs.length ≤ c) :
    (m.writeN a bs).read c = m.read c := by
  rw [read_writeN, if_neg (by omega)]

theorem Memory.writeN_append (m : Memory) (a : Nat) (bs cs : List Byte) :
    m.writeN a (bs ++ cs) = (m.writeN a bs).writeN (a + bs.length) cs := by
  induction bs generalizing m a with
  | nil => rfl
  | cons b bs ih => simp only [List.cons_append, writeN, ih, List.length_cons]; congr 1; omega

/-- `MemRead` gives as many bytes as it is asked for. -/
theorem Memory.readN_length {m : Memory} {a n : Nat} {bs : List Byte} (h : m.readN a n = some bs) :
    bs.length = n := by
  induction n generalizing a bs with
  | zero => simp only [readN, Option.some.injEq] at h; simp [← h]
  | succ n ih =>
    unfold readN at h
    split at h
    · rename_i h₂; cases h; simp [ih h₂]
    · cases h

/-- `MemRead` gives exactly the bytes that single reads give. -/
theorem Memory.readN_eq_some (m : Memory) (a n : Nat) (bs : List Byte) :
    m.readN a n = some bs ↔ bs.length = n ∧ ∀ k, k < n → m.read (a + k) = bs[k]? := by
  induction n generalizing a bs with
  | zero =>
    simp only [readN, Option.some.injEq, Nat.not_lt_zero, false_implies, implies_true, and_true]
    exact ⟨fun h => by simp [← h], fun h => (List.length_eq_zero_iff.1 h).symm⟩
  | succ n ih =>
    unfold readN
    constructor
    · intro h
      split at h
      · rename_i b bs' h₁ h₂
        cases h
        obtain ⟨hl, hr⟩ := (ih _ _).1 h₂
        refine ⟨by simp [hl], fun k hk => ?_⟩
        cases k with
        | zero => simpa using h₁
        | succ k => rw [show a + (k + 1) = a + 1 + k by omega, hr k (by omega)]; simp
      · cases h
    · rintro ⟨hl, hr⟩
      cases bs with
      | nil => simp at hl
      | cons b bs =>
        have h₀ := hr 0 (by omega)
        have h₁ : m.readN (a + 1) n = some bs := (ih _ _).2 ⟨by simpa using hl, fun k hk => by
          rw [show a + 1 + k = a + (k + 1) by omega, hr (k + 1) (by omega)]; simp⟩
        simp only [Nat.add_zero, List.getElem?_cons_zero] at h₀
        simp [h₀, h₁]

/-- `MemRead` succeeds exactly when every byte it reads is written. -/
theorem Memory.readN_isSome (m : Memory) (a n : Nat) :
    (m.readN a n).isSome ↔ ∀ k, k < n → (m.read (a + k)).isSome := by
  induction n generalizing a with
  | zero => simp [readN]
  | succ n ih =>
    unfold readN
    constructor
    · intro h k hk
      split at h
      · rename_i h₁ h₂
        cases k with
        | zero => simp [h₁]
        | succ k =>
          have := (ih (a + 1)).1 (by simp [h₂]) k (by omega)
          rwa [show a + (k + 1) = a + 1 + k by omega]
      · cases h
    · intro h
      obtain ⟨b, hb⟩ := Option.isSome_iff_exists.1 (h 0 (by omega))
      obtain ⟨bs, hbs⟩ := Option.isSome_iff_exists.1 ((ih (a + 1)).2 fun k hk => by
        have := h (k + 1) (by omega)
        rwa [show a + (k + 1) = a + 1 + k by omega] at this)
      rw [Nat.add_zero] at hb
      simp [hb, hbs]

theorem Memory.readN_congr {m m' : Memory} {a n : Nat} (h : ∀ k, k < n → m'.read (a + k) = m.read (a + k)) :
    m'.readN a n = m.readN a n := by
  induction n generalizing a with
  | zero => rfl
  | succ n ih =>
    unfold readN
    rw [show m'.read a = m.read a from h 0 (by omega),
      ih fun k hk => by rw [show a + 1 + k = a + (k + 1) by omega]; exact h _ (by omega)]

/-- A read just after a write of the same sequence gives it back. -/
theorem Memory.readN_writeN_same (m : Memory) (a : Nat) (bs : List Byte) :
    (m.writeN a bs).readN a bs.length = some bs :=
  (readN_eq_some _ _ _ _).2 ⟨rfl, fun k hk => by
    rw [read_writeN, if_pos (by omega), show a + k - a = k by omega]⟩

/-- Bytes read in two pieces. -/
theorem Memory.readN_add (m : Memory) (a n k : Nat) {bs cs : List Byte} (h₁ : m.readN a n = some bs)
    (h₂ : m.readN (a + n) k = some cs) : m.readN a (n + k) = some (bs ++ cs) := by
  obtain ⟨l₁, r₁⟩ := (readN_eq_some ..).1 h₁
  obtain ⟨l₂, r₂⟩ := (readN_eq_some ..).1 h₂
  refine (readN_eq_some ..).2 ⟨by simp [l₁, l₂], fun i hi => ?_⟩
  by_cases h : i < n
  · rw [r₁ i h, List.getElem?_append_left (by omega)]
  · obtain ⟨j, rfl⟩ : ∃ j, i = n + j := ⟨i - n, by omega⟩
    rw [show a + (n + j) = a + n + j by omega, r₂ j (by omega), List.getElem?_append_right (by omega), l₁,
      show n + j - n = j by omega]

end Sys2Proof.Machine
end

