-- ==== Sys2Proof/Laws/State.lean ====
section
/-! SUPPORT. One lemma per field per named update of State, so that no proof unfolds a record update. -/

namespace Sys2Proof.Machine

variable (s : State)

@[simp] theorem State.setCmd_cmd (v : Word) : (s.setCmd v).cmd = v := rfl
@[simp] theorem State.setCmd_arg0 (v : Word) : (s.setCmd v).arg0 = s.arg0 := rfl
@[simp] theorem State.setCmd_inLen (v : Word) : (s.setCmd v).inLen = s.inLen := rfl
@[simp] theorem State.setCmd_type (v : Word) : (s.setCmd v).type = s.type := rfl
@[simp] theorem State.setCmd_acc (v : Word) : (s.setCmd v).acc = s.acc := rfl
@[simp] theorem State.setCmd_chLen (v : Word) : (s.setCmd v).chLen = s.chLen := rfl
@[simp] theorem State.setCmd_chType (v : Word) : (s.setCmd v).chType = s.chType := rfl
@[simp] theorem State.setCmd_chOff (v : Word) : (s.setCmd v).chOff = s.chOff := rfl
@[simp] theorem State.setCmd_chValid (v : Word) : (s.setCmd v).chValid = s.chValid := rfl
@[simp] theorem State.setCmd_decLen (v : Word) : (s.setCmd v).decLen = s.decLen := rfl
@[simp] theorem State.setCmd_expCrc (v : Word) : (s.setCmd v).expCrc = s.expCrc := rfl
@[simp] theorem State.setCmd_outLen (v : Word) : (s.setCmd v).outLen = s.outLen := rfl
@[simp] theorem State.setCmd_crcMatch (v : Word) : (s.setCmd v).crcMatch = s.crcMatch := rfl
@[simp] theorem State.setCmd_err (v : Word) : (s.setCmd v).err = s.err := rfl
@[simp] theorem State.setCmd_busy (v : Word) : (s.setCmd v).busy = s.busy := rfl
@[simp] theorem State.setCmd_ibuf (v : Word) : (s.setCmd v).ibuf = s.ibuf := rfl
@[simp] theorem State.setCmd_obuf (v : Word) : (s.setCmd v).obuf = s.obuf := rfl
@[simp] theorem State.setCmd_pending (v : Word) : (s.setCmd v).pending = s.pending := rfl
@[simp] theorem State.setCmd_reply (v : Word) : (s.setCmd v).reply = s.reply := rfl

@[simp] theorem State.setArg0_cmd (v : Word) : (s.setArg0 v).cmd = s.cmd := rfl
@[simp] theorem State.setArg0_arg0 (v : Word) : (s.setArg0 v).arg0 = v := rfl
@[simp] theorem State.setArg0_inLen (v : Word) : (s.setArg0 v).inLen = s.inLen := rfl
@[simp] theorem State.setArg0_type (v : Word) : (s.setArg0 v).type = s.type := rfl
@[simp] theorem State.setArg0_acc (v : Word) : (s.setArg0 v).acc = s.acc := rfl
@[simp] theorem State.setArg0_chLen (v : Word) : (s.setArg0 v).chLen = s.chLen := rfl
@[simp] theorem State.setArg0_chType (v : Word) : (s.setArg0 v).chType = s.chType := rfl
@[simp] theorem State.setArg0_chOff (v : Word) : (s.setArg0 v).chOff = s.chOff := rfl
@[simp] theorem State.setArg0_chValid (v : Word) : (s.setArg0 v).chValid = s.chValid := rfl
@[simp] theorem State.setArg0_decLen (v : Word) : (s.setArg0 v).decLen = s.decLen := rfl
@[simp] theorem State.setArg0_expCrc (v : Word) : (s.setArg0 v).expCrc = s.expCrc := rfl
@[simp] theorem State.setArg0_outLen (v : Word) : (s.setArg0 v).outLen = s.outLen := rfl
@[simp] theorem State.setArg0_crcMatch (v : Word) : (s.setArg0 v).crcMatch = s.crcMatch := rfl
@[simp] theorem State.setArg0_err (v : Word) : (s.setArg0 v).err = s.err := rfl
@[simp] theorem State.setArg0_busy (v : Word) : (s.setArg0 v).busy = s.busy := rfl
@[simp] theorem State.setArg0_ibuf (v : Word) : (s.setArg0 v).ibuf = s.ibuf := rfl
@[simp] theorem State.setArg0_obuf (v : Word) : (s.setArg0 v).obuf = s.obuf := rfl
@[simp] theorem State.setArg0_pending (v : Word) : (s.setArg0 v).pending = s.pending := rfl
@[simp] theorem State.setArg0_reply (v : Word) : (s.setArg0 v).reply = s.reply := rfl

@[simp] theorem State.setInLen_cmd (v : Word) : (s.setInLen v).cmd = s.cmd := rfl
@[simp] theorem State.setInLen_arg0 (v : Word) : (s.setInLen v).arg0 = s.arg0 := rfl
@[simp] theorem State.setInLen_inLen (v : Word) : (s.setInLen v).inLen = v := rfl
@[simp] theorem State.setInLen_type (v : Word) : (s.setInLen v).type = s.type := rfl
@[simp] theorem State.setInLen_acc (v : Word) : (s.setInLen v).acc = s.acc := rfl
@[simp] theorem State.setInLen_chLen (v : Word) : (s.setInLen v).chLen = s.chLen := rfl
@[simp] theorem State.setInLen_chType (v : Word) : (s.setInLen v).chType = s.chType := rfl
@[simp] theorem State.setInLen_chOff (v : Word) : (s.setInLen v).chOff = s.chOff := rfl
@[simp] theorem State.setInLen_chValid (v : Word) : (s.setInLen v).chValid = s.chValid := rfl
@[simp] theorem State.setInLen_decLen (v : Word) : (s.setInLen v).decLen = s.decLen := rfl
@[simp] theorem State.setInLen_expCrc (v : Word) : (s.setInLen v).expCrc = s.expCrc := rfl
@[simp] theorem State.setInLen_outLen (v : Word) : (s.setInLen v).outLen = s.outLen := rfl
@[simp] theorem State.setInLen_crcMatch (v : Word) : (s.setInLen v).crcMatch = s.crcMatch := rfl
@[simp] theorem State.setInLen_err (v : Word) : (s.setInLen v).err = s.err := rfl
@[simp] theorem State.setInLen_busy (v : Word) : (s.setInLen v).busy = s.busy := rfl
@[simp] theorem State.setInLen_ibuf (v : Word) : (s.setInLen v).ibuf = s.ibuf := rfl
@[simp] theorem State.setInLen_obuf (v : Word) : (s.setInLen v).obuf = s.obuf := rfl
@[simp] theorem State.setInLen_pending (v : Word) : (s.setInLen v).pending = s.pending := rfl
@[simp] theorem State.setInLen_reply (v : Word) : (s.setInLen v).reply = s.reply := rfl

@[simp] theorem State.setType_cmd (v : Word) : (s.setType v).cmd = s.cmd := rfl
@[simp] theorem State.setType_arg0 (v : Word) : (s.setType v).arg0 = s.arg0 := rfl
@[simp] theorem State.setType_inLen (v : Word) : (s.setType v).inLen = s.inLen := rfl
@[simp] theorem State.setType_type (v : Word) : (s.setType v).type = v := rfl
@[simp] theorem State.setType_acc (v : Word) : (s.setType v).acc = s.acc := rfl
@[simp] theorem State.setType_chLen (v : Word) : (s.setType v).chLen = s.chLen := rfl
@[simp] theorem State.setType_chType (v : Word) : (s.setType v).chType = s.chType := rfl
@[simp] theorem State.setType_chOff (v : Word) : (s.setType v).chOff = s.chOff := rfl
@[simp] theorem State.setType_chValid (v : Word) : (s.setType v).chValid = s.chValid := rfl
@[simp] theorem State.setType_decLen (v : Word) : (s.setType v).decLen = s.decLen := rfl
@[simp] theorem State.setType_expCrc (v : Word) : (s.setType v).expCrc = s.expCrc := rfl
@[simp] theorem State.setType_outLen (v : Word) : (s.setType v).outLen = s.outLen := rfl
@[simp] theorem State.setType_crcMatch (v : Word) : (s.setType v).crcMatch = s.crcMatch := rfl
@[simp] theorem State.setType_err (v : Word) : (s.setType v).err = s.err := rfl
@[simp] theorem State.setType_busy (v : Word) : (s.setType v).busy = s.busy := rfl
@[simp] theorem State.setType_ibuf (v : Word) : (s.setType v).ibuf = s.ibuf := rfl
@[simp] theorem State.setType_obuf (v : Word) : (s.setType v).obuf = s.obuf := rfl
@[simp] theorem State.setType_pending (v : Word) : (s.setType v).pending = s.pending := rfl
@[simp] theorem State.setType_reply (v : Word) : (s.setType v).reply = s.reply := rfl

@[simp] theorem State.setAcc_cmd (v : Word) : (s.setAcc v).cmd = s.cmd := rfl
@[simp] theorem State.setAcc_arg0 (v : Word) : (s.setAcc v).arg0 = s.arg0 := rfl
@[simp] theorem State.setAcc_inLen (v : Word) : (s.setAcc v).inLen = s.inLen := rfl
@[simp] theorem State.setAcc_type (v : Word) : (s.setAcc v).type = s.type := rfl
@[simp] theorem State.setAcc_acc (v : Word) : (s.setAcc v).acc = v := rfl
@[simp] theorem State.setAcc_chLen (v : Word) : (s.setAcc v).chLen = s.chLen := rfl
@[simp] theorem State.setAcc_chType (v : Word) : (s.setAcc v).chType = s.chType := rfl
@[simp] theorem State.setAcc_chOff (v : Word) : (s.setAcc v).chOff = s.chOff := rfl
@[simp] theorem State.setAcc_chValid (v : Word) : (s.setAcc v).chValid = s.chValid := rfl
@[simp] theorem State.setAcc_decLen (v : Word) : (s.setAcc v).decLen = s.decLen := rfl
@[simp] theorem State.setAcc_expCrc (v : Word) : (s.setAcc v).expCrc = s.expCrc := rfl
@[simp] theorem State.setAcc_outLen (v : Word) : (s.setAcc v).outLen = s.outLen := rfl
@[simp] theorem State.setAcc_crcMatch (v : Word) : (s.setAcc v).crcMatch = s.crcMatch := rfl
@[simp] theorem State.setAcc_err (v : Word) : (s.setAcc v).err = s.err := rfl
@[simp] theorem State.setAcc_busy (v : Word) : (s.setAcc v).busy = s.busy := rfl
@[simp] theorem State.setAcc_ibuf (v : Word) : (s.setAcc v).ibuf = s.ibuf := rfl
@[simp] theorem State.setAcc_obuf (v : Word) : (s.setAcc v).obuf = s.obuf := rfl
@[simp] theorem State.setAcc_pending (v : Word) : (s.setAcc v).pending = s.pending := rfl
@[simp] theorem State.setAcc_reply (v : Word) : (s.setAcc v).reply = s.reply := rfl

@[simp] theorem State.setDecLen_cmd (v : Word) : (s.setDecLen v).cmd = s.cmd := rfl
@[simp] theorem State.setDecLen_arg0 (v : Word) : (s.setDecLen v).arg0 = s.arg0 := rfl
@[simp] theorem State.setDecLen_inLen (v : Word) : (s.setDecLen v).inLen = s.inLen := rfl
@[simp] theorem State.setDecLen_type (v : Word) : (s.setDecLen v).type = s.type := rfl
@[simp] theorem State.setDecLen_acc (v : Word) : (s.setDecLen v).acc = s.acc := rfl
@[simp] theorem State.setDecLen_chLen (v : Word) : (s.setDecLen v).chLen = s.chLen := rfl
@[simp] theorem State.setDecLen_chType (v : Word) : (s.setDecLen v).chType = s.chType := rfl
@[simp] theorem State.setDecLen_chOff (v : Word) : (s.setDecLen v).chOff = s.chOff := rfl
@[simp] theorem State.setDecLen_chValid (v : Word) : (s.setDecLen v).chValid = s.chValid := rfl
@[simp] theorem State.setDecLen_decLen (v : Word) : (s.setDecLen v).decLen = v := rfl
@[simp] theorem State.setDecLen_expCrc (v : Word) : (s.setDecLen v).expCrc = s.expCrc := rfl
@[simp] theorem State.setDecLen_outLen (v : Word) : (s.setDecLen v).outLen = s.outLen := rfl
@[simp] theorem State.setDecLen_crcMatch (v : Word) : (s.setDecLen v).crcMatch = s.crcMatch := rfl
@[simp] theorem State.setDecLen_err (v : Word) : (s.setDecLen v).err = s.err := rfl
@[simp] theorem State.setDecLen_busy (v : Word) : (s.setDecLen v).busy = s.busy := rfl
@[simp] theorem State.setDecLen_ibuf (v : Word) : (s.setDecLen v).ibuf = s.ibuf := rfl
@[simp] theorem State.setDecLen_obuf (v : Word) : (s.setDecLen v).obuf = s.obuf := rfl
@[simp] theorem State.setDecLen_pending (v : Word) : (s.setDecLen v).pending = s.pending := rfl
@[simp] theorem State.setDecLen_reply (v : Word) : (s.setDecLen v).reply = s.reply := rfl

@[simp] theorem State.setExpCrc_cmd (v : Word) : (s.setExpCrc v).cmd = s.cmd := rfl
@[simp] theorem State.setExpCrc_arg0 (v : Word) : (s.setExpCrc v).arg0 = s.arg0 := rfl
@[simp] theorem State.setExpCrc_inLen (v : Word) : (s.setExpCrc v).inLen = s.inLen := rfl
@[simp] theorem State.setExpCrc_type (v : Word) : (s.setExpCrc v).type = s.type := rfl
@[simp] theorem State.setExpCrc_acc (v : Word) : (s.setExpCrc v).acc = s.acc := rfl
@[simp] theorem State.setExpCrc_chLen (v : Word) : (s.setExpCrc v).chLen = s.chLen := rfl
@[simp] theorem State.setExpCrc_chType (v : Word) : (s.setExpCrc v).chType = s.chType := rfl
@[simp] theorem State.setExpCrc_chOff (v : Word) : (s.setExpCrc v).chOff = s.chOff := rfl
@[simp] theorem State.setExpCrc_chValid (v : Word) : (s.setExpCrc v).chValid = s.chValid := rfl
@[simp] theorem State.setExpCrc_decLen (v : Word) : (s.setExpCrc v).decLen = s.decLen := rfl
@[simp] theorem State.setExpCrc_expCrc (v : Word) : (s.setExpCrc v).expCrc = v := rfl
@[simp] theorem State.setExpCrc_outLen (v : Word) : (s.setExpCrc v).outLen = s.outLen := rfl
@[simp] theorem State.setExpCrc_crcMatch (v : Word) : (s.setExpCrc v).crcMatch = s.crcMatch := rfl
@[simp] theorem State.setExpCrc_err (v : Word) : (s.setExpCrc v).err = s.err := rfl
@[simp] theorem State.setExpCrc_busy (v : Word) : (s.setExpCrc v).busy = s.busy := rfl
@[simp] theorem State.setExpCrc_ibuf (v : Word) : (s.setExpCrc v).ibuf = s.ibuf := rfl
@[simp] theorem State.setExpCrc_obuf (v : Word) : (s.setExpCrc v).obuf = s.obuf := rfl
@[simp] theorem State.setExpCrc_pending (v : Word) : (s.setExpCrc v).pending = s.pending := rfl
@[simp] theorem State.setExpCrc_reply (v : Word) : (s.setExpCrc v).reply = s.reply := rfl

@[simp] theorem State.setOutLen_cmd (v : Word) : (s.setOutLen v).cmd = s.cmd := rfl
@[simp] theorem State.setOutLen_arg0 (v : Word) : (s.setOutLen v).arg0 = s.arg0 := rfl
@[simp] theorem State.setOutLen_inLen (v : Word) : (s.setOutLen v).inLen = s.inLen := rfl
@[simp] theorem State.setOutLen_type (v : Word) : (s.setOutLen v).type = s.type := rfl
@[simp] theorem State.setOutLen_acc (v : Word) : (s.setOutLen v).acc = s.acc := rfl
@[simp] theorem State.setOutLen_chLen (v : Word) : (s.setOutLen v).chLen = s.chLen := rfl
@[simp] theorem State.setOutLen_chType (v : Word) : (s.setOutLen v).chType = s.chType := rfl
@[simp] theorem State.setOutLen_chOff (v : Word) : (s.setOutLen v).chOff = s.chOff := rfl
@[simp] theorem State.setOutLen_chValid (v : Word) : (s.setOutLen v).chValid = s.chValid := rfl
@[simp] theorem State.setOutLen_decLen (v : Word) : (s.setOutLen v).decLen = s.decLen := rfl
@[simp] theorem State.setOutLen_expCrc (v : Word) : (s.setOutLen v).expCrc = s.expCrc := rfl
@[simp] theorem State.setOutLen_outLen (v : Word) : (s.setOutLen v).outLen = v := rfl
@[simp] theorem State.setOutLen_crcMatch (v : Word) : (s.setOutLen v).crcMatch = s.crcMatch := rfl
@[simp] theorem State.setOutLen_err (v : Word) : (s.setOutLen v).err = s.err := rfl
@[simp] theorem State.setOutLen_busy (v : Word) : (s.setOutLen v).busy = s.busy := rfl
@[simp] theorem State.setOutLen_ibuf (v : Word) : (s.setOutLen v).ibuf = s.ibuf := rfl
@[simp] theorem State.setOutLen_obuf (v : Word) : (s.setOutLen v).obuf = s.obuf := rfl
@[simp] theorem State.setOutLen_pending (v : Word) : (s.setOutLen v).pending = s.pending := rfl
@[simp] theorem State.setOutLen_reply (v : Word) : (s.setOutLen v).reply = s.reply := rfl

@[simp] theorem State.setCrcMatch_cmd (b : Bool) : (s.setCrcMatch b).cmd = s.cmd := rfl
@[simp] theorem State.setCrcMatch_arg0 (b : Bool) : (s.setCrcMatch b).arg0 = s.arg0 := rfl
@[simp] theorem State.setCrcMatch_inLen (b : Bool) : (s.setCrcMatch b).inLen = s.inLen := rfl
@[simp] theorem State.setCrcMatch_type (b : Bool) : (s.setCrcMatch b).type = s.type := rfl
@[simp] theorem State.setCrcMatch_acc (b : Bool) : (s.setCrcMatch b).acc = s.acc := rfl
@[simp] theorem State.setCrcMatch_chLen (b : Bool) : (s.setCrcMatch b).chLen = s.chLen := rfl
@[simp] theorem State.setCrcMatch_chType (b : Bool) : (s.setCrcMatch b).chType = s.chType := rfl
@[simp] theorem State.setCrcMatch_chOff (b : Bool) : (s.setCrcMatch b).chOff = s.chOff := rfl
@[simp] theorem State.setCrcMatch_chValid (b : Bool) : (s.setCrcMatch b).chValid = s.chValid := rfl
@[simp] theorem State.setCrcMatch_decLen (b : Bool) : (s.setCrcMatch b).decLen = s.decLen := rfl
@[simp] theorem State.setCrcMatch_expCrc (b : Bool) : (s.setCrcMatch b).expCrc = s.expCrc := rfl
@[simp] theorem State.setCrcMatch_outLen (b : Bool) : (s.setCrcMatch b).outLen = s.outLen := rfl
@[simp] theorem State.setCrcMatch_crcMatch (b : Bool) : (s.setCrcMatch b).crcMatch = b := rfl
@[simp] theorem State.setCrcMatch_err (b : Bool) : (s.setCrcMatch b).err = s.err := rfl
@[simp] theorem State.setCrcMatch_busy (b : Bool) : (s.setCrcMatch b).busy = s.busy := rfl
@[simp] theorem State.setCrcMatch_ibuf (b : Bool) : (s.setCrcMatch b).ibuf = s.ibuf := rfl
@[simp] theorem State.setCrcMatch_obuf (b : Bool) : (s.setCrcMatch b).obuf = s.obuf := rfl
@[simp] theorem State.setCrcMatch_pending (b : Bool) : (s.setCrcMatch b).pending = s.pending := rfl
@[simp] theorem State.setCrcMatch_reply (b : Bool) : (s.setCrcMatch b).reply = s.reply := rfl

@[simp] theorem State.setBusy_cmd (b : Bool) : (s.setBusy b).cmd = s.cmd := rfl
@[simp] theorem State.setBusy_arg0 (b : Bool) : (s.setBusy b).arg0 = s.arg0 := rfl
@[simp] theorem State.setBusy_inLen (b : Bool) : (s.setBusy b).inLen = s.inLen := rfl
@[simp] theorem State.setBusy_type (b : Bool) : (s.setBusy b).type = s.type := rfl
@[simp] theorem State.setBusy_acc (b : Bool) : (s.setBusy b).acc = s.acc := rfl
@[simp] theorem State.setBusy_chLen (b : Bool) : (s.setBusy b).chLen = s.chLen := rfl
@[simp] theorem State.setBusy_chType (b : Bool) : (s.setBusy b).chType = s.chType := rfl
@[simp] theorem State.setBusy_chOff (b : Bool) : (s.setBusy b).chOff = s.chOff := rfl
@[simp] theorem State.setBusy_chValid (b : Bool) : (s.setBusy b).chValid = s.chValid := rfl
@[simp] theorem State.setBusy_decLen (b : Bool) : (s.setBusy b).decLen = s.decLen := rfl
@[simp] theorem State.setBusy_expCrc (b : Bool) : (s.setBusy b).expCrc = s.expCrc := rfl
@[simp] theorem State.setBusy_outLen (b : Bool) : (s.setBusy b).outLen = s.outLen := rfl
@[simp] theorem State.setBusy_crcMatch (b : Bool) : (s.setBusy b).crcMatch = s.crcMatch := rfl
@[simp] theorem State.setBusy_err (b : Bool) : (s.setBusy b).err = s.err := rfl
@[simp] theorem State.setBusy_busy (b : Bool) : (s.setBusy b).busy = b := rfl
@[simp] theorem State.setBusy_ibuf (b : Bool) : (s.setBusy b).ibuf = s.ibuf := rfl
@[simp] theorem State.setBusy_obuf (b : Bool) : (s.setBusy b).obuf = s.obuf := rfl
@[simp] theorem State.setBusy_pending (b : Bool) : (s.setBusy b).pending = s.pending := rfl
@[simp] theorem State.setBusy_reply (b : Bool) : (s.setBusy b).reply = s.reply := rfl

@[simp] theorem State.setErr_cmd (e : ErrCode) : (s.setErr e).cmd = s.cmd := rfl
@[simp] theorem State.setErr_arg0 (e : ErrCode) : (s.setErr e).arg0 = s.arg0 := rfl
@[simp] theorem State.setErr_inLen (e : ErrCode) : (s.setErr e).inLen = s.inLen := rfl
@[simp] theorem State.setErr_type (e : ErrCode) : (s.setErr e).type = s.type := rfl
@[simp] theorem State.setErr_acc (e : ErrCode) : (s.setErr e).acc = s.acc := rfl
@[simp] theorem State.setErr_chLen (e : ErrCode) : (s.setErr e).chLen = s.chLen := rfl
@[simp] theorem State.setErr_chType (e : ErrCode) : (s.setErr e).chType = s.chType := rfl
@[simp] theorem State.setErr_chOff (e : ErrCode) : (s.setErr e).chOff = s.chOff := rfl
@[simp] theorem State.setErr_chValid (e : ErrCode) : (s.setErr e).chValid = s.chValid := rfl
@[simp] theorem State.setErr_decLen (e : ErrCode) : (s.setErr e).decLen = s.decLen := rfl
@[simp] theorem State.setErr_expCrc (e : ErrCode) : (s.setErr e).expCrc = s.expCrc := rfl
@[simp] theorem State.setErr_outLen (e : ErrCode) : (s.setErr e).outLen = s.outLen := rfl
@[simp] theorem State.setErr_crcMatch (e : ErrCode) : (s.setErr e).crcMatch = s.crcMatch := rfl
@[simp] theorem State.setErr_err (e : ErrCode) : (s.setErr e).err = e.code := rfl
@[simp] theorem State.setErr_busy (e : ErrCode) : (s.setErr e).busy = s.busy := rfl
@[simp] theorem State.setErr_ibuf (e : ErrCode) : (s.setErr e).ibuf = s.ibuf := rfl
@[simp] theorem State.setErr_obuf (e : ErrCode) : (s.setErr e).obuf = s.obuf := rfl
@[simp] theorem State.setErr_pending (e : ErrCode) : (s.setErr e).pending = s.pending := rfl
@[simp] theorem State.setErr_reply (e : ErrCode) : (s.setErr e).reply = s.reply := rfl

@[simp] theorem State.setPending_cmd (ts : List HostTxn) : (s.setPending ts).cmd = s.cmd := rfl
@[simp] theorem State.setPending_arg0 (ts : List HostTxn) : (s.setPending ts).arg0 = s.arg0 := rfl
@[simp] theorem State.setPending_inLen (ts : List HostTxn) : (s.setPending ts).inLen = s.inLen := rfl
@[simp] theorem State.setPending_type (ts : List HostTxn) : (s.setPending ts).type = s.type := rfl
@[simp] theorem State.setPending_acc (ts : List HostTxn) : (s.setPending ts).acc = s.acc := rfl
@[simp] theorem State.setPending_chLen (ts : List HostTxn) : (s.setPending ts).chLen = s.chLen := rfl
@[simp] theorem State.setPending_chType (ts : List HostTxn) : (s.setPending ts).chType = s.chType := rfl
@[simp] theorem State.setPending_chOff (ts : List HostTxn) : (s.setPending ts).chOff = s.chOff := rfl
@[simp] theorem State.setPending_chValid (ts : List HostTxn) : (s.setPending ts).chValid = s.chValid := rfl
@[simp] theorem State.setPending_decLen (ts : List HostTxn) : (s.setPending ts).decLen = s.decLen := rfl
@[simp] theorem State.setPending_expCrc (ts : List HostTxn) : (s.setPending ts).expCrc = s.expCrc := rfl
@[simp] theorem State.setPending_outLen (ts : List HostTxn) : (s.setPending ts).outLen = s.outLen := rfl
@[simp] theorem State.setPending_crcMatch (ts : List HostTxn) : (s.setPending ts).crcMatch = s.crcMatch := rfl
@[simp] theorem State.setPending_err (ts : List HostTxn) : (s.setPending ts).err = s.err := rfl
@[simp] theorem State.setPending_busy (ts : List HostTxn) : (s.setPending ts).busy = s.busy := rfl
@[simp] theorem State.setPending_ibuf (ts : List HostTxn) : (s.setPending ts).ibuf = s.ibuf := rfl
@[simp] theorem State.setPending_obuf (ts : List HostTxn) : (s.setPending ts).obuf = s.obuf := rfl
@[simp] theorem State.setPending_pending (ts : List HostTxn) : (s.setPending ts).pending = ts := rfl
@[simp] theorem State.setPending_reply (ts : List HostTxn) : (s.setPending ts).reply = s.reply := rfl

@[simp] theorem State.setReply_cmd (r : Option Reply) : (s.setReply r).cmd = s.cmd := rfl
@[simp] theorem State.setReply_arg0 (r : Option Reply) : (s.setReply r).arg0 = s.arg0 := rfl
@[simp] theorem State.setReply_inLen (r : Option Reply) : (s.setReply r).inLen = s.inLen := rfl
@[simp] theorem State.setReply_type (r : Option Reply) : (s.setReply r).type = s.type := rfl
@[simp] theorem State.setReply_acc (r : Option Reply) : (s.setReply r).acc = s.acc := rfl
@[simp] theorem State.setReply_chLen (r : Option Reply) : (s.setReply r).chLen = s.chLen := rfl
@[simp] theorem State.setReply_chType (r : Option Reply) : (s.setReply r).chType = s.chType := rfl
@[simp] theorem State.setReply_chOff (r : Option Reply) : (s.setReply r).chOff = s.chOff := rfl
@[simp] theorem State.setReply_chValid (r : Option Reply) : (s.setReply r).chValid = s.chValid := rfl
@[simp] theorem State.setReply_decLen (r : Option Reply) : (s.setReply r).decLen = s.decLen := rfl
@[simp] theorem State.setReply_expCrc (r : Option Reply) : (s.setReply r).expCrc = s.expCrc := rfl
@[simp] theorem State.setReply_outLen (r : Option Reply) : (s.setReply r).outLen = s.outLen := rfl
@[simp] theorem State.setReply_crcMatch (r : Option Reply) : (s.setReply r).crcMatch = s.crcMatch := rfl
@[simp] theorem State.setReply_err (r : Option Reply) : (s.setReply r).err = s.err := rfl
@[simp] theorem State.setReply_busy (r : Option Reply) : (s.setReply r).busy = s.busy := rfl
@[simp] theorem State.setReply_ibuf (r : Option Reply) : (s.setReply r).ibuf = s.ibuf := rfl
@[simp] theorem State.setReply_obuf (r : Option Reply) : (s.setReply r).obuf = s.obuf := rfl
@[simp] theorem State.setReply_pending (r : Option Reply) : (s.setReply r).pending = s.pending := rfl
@[simp] theorem State.setReply_reply (r : Option Reply) : (s.setReply r).reply = r := rfl

@[simp] theorem State.setChunk_cmd (l t o : Word) : (s.setChunk l t o).cmd = s.cmd := rfl
@[simp] theorem State.setChunk_arg0 (l t o : Word) : (s.setChunk l t o).arg0 = s.arg0 := rfl
@[simp] theorem State.setChunk_inLen (l t o : Word) : (s.setChunk l t o).inLen = s.inLen := rfl
@[simp] theorem State.setChunk_type (l t o : Word) : (s.setChunk l t o).type = s.type := rfl
@[simp] theorem State.setChunk_acc (l t o : Word) : (s.setChunk l t o).acc = s.acc := rfl
@[simp] theorem State.setChunk_chLen (l t o : Word) : (s.setChunk l t o).chLen = l := rfl
@[simp] theorem State.setChunk_chType (l t o : Word) : (s.setChunk l t o).chType = t := rfl
@[simp] theorem State.setChunk_chOff (l t o : Word) : (s.setChunk l t o).chOff = o := rfl
@[simp] theorem State.setChunk_chValid (l t o : Word) : (s.setChunk l t o).chValid = true := rfl
@[simp] theorem State.setChunk_decLen (l t o : Word) : (s.setChunk l t o).decLen = s.decLen := rfl
@[simp] theorem State.setChunk_expCrc (l t o : Word) : (s.setChunk l t o).expCrc = s.expCrc := rfl
@[simp] theorem State.setChunk_outLen (l t o : Word) : (s.setChunk l t o).outLen = s.outLen := rfl
@[simp] theorem State.setChunk_crcMatch (l t o : Word) : (s.setChunk l t o).crcMatch = s.crcMatch := rfl
@[simp] theorem State.setChunk_err (l t o : Word) : (s.setChunk l t o).err = s.err := rfl
@[simp] theorem State.setChunk_busy (l t o : Word) : (s.setChunk l t o).busy = s.busy := rfl
@[simp] theorem State.setChunk_ibuf (l t o : Word) : (s.setChunk l t o).ibuf = s.ibuf := rfl
@[simp] theorem State.setChunk_obuf (l t o : Word) : (s.setChunk l t o).obuf = s.obuf := rfl
@[simp] theorem State.setChunk_pending (l t o : Word) : (s.setChunk l t o).pending = s.pending := rfl
@[simp] theorem State.setChunk_reply (l t o : Word) : (s.setChunk l t o).reply = s.reply := rfl

@[simp] theorem State.writeIbuf_cmd (i : Nat) (b : Byte) : (s.writeIbuf i b).cmd = s.cmd := rfl
@[simp] theorem State.writeIbuf_arg0 (i : Nat) (b : Byte) : (s.writeIbuf i b).arg0 = s.arg0 := rfl
@[simp] theorem State.writeIbuf_inLen (i : Nat) (b : Byte) : (s.writeIbuf i b).inLen = s.inLen := rfl
@[simp] theorem State.writeIbuf_type (i : Nat) (b : Byte) : (s.writeIbuf i b).type = s.type := rfl
@[simp] theorem State.writeIbuf_acc (i : Nat) (b : Byte) : (s.writeIbuf i b).acc = s.acc := rfl
@[simp] theorem State.writeIbuf_chLen (i : Nat) (b : Byte) : (s.writeIbuf i b).chLen = s.chLen := rfl
@[simp] theorem State.writeIbuf_chType (i : Nat) (b : Byte) : (s.writeIbuf i b).chType = s.chType := rfl
@[simp] theorem State.writeIbuf_chOff (i : Nat) (b : Byte) : (s.writeIbuf i b).chOff = s.chOff := rfl
@[simp] theorem State.writeIbuf_chValid (i : Nat) (b : Byte) : (s.writeIbuf i b).chValid = false := rfl
@[simp] theorem State.writeIbuf_decLen (i : Nat) (b : Byte) : (s.writeIbuf i b).decLen = s.decLen := rfl
@[simp] theorem State.writeIbuf_expCrc (i : Nat) (b : Byte) : (s.writeIbuf i b).expCrc = s.expCrc := rfl
@[simp] theorem State.writeIbuf_outLen (i : Nat) (b : Byte) : (s.writeIbuf i b).outLen = s.outLen := rfl
@[simp] theorem State.writeIbuf_crcMatch (i : Nat) (b : Byte) : (s.writeIbuf i b).crcMatch = s.crcMatch := rfl
@[simp] theorem State.writeIbuf_err (i : Nat) (b : Byte) : (s.writeIbuf i b).err = s.err := rfl
@[simp] theorem State.writeIbuf_busy (i : Nat) (b : Byte) : (s.writeIbuf i b).busy = s.busy := rfl
@[simp] theorem State.writeIbuf_ibuf (i : Nat) (b : Byte) : (s.writeIbuf i b).ibuf = s.ibuf.write i b := rfl
@[simp] theorem State.writeIbuf_obuf (i : Nat) (b : Byte) : (s.writeIbuf i b).obuf = s.obuf := rfl
@[simp] theorem State.writeIbuf_pending (i : Nat) (b : Byte) : (s.writeIbuf i b).pending = s.pending := rfl
@[simp] theorem State.writeIbuf_reply (i : Nat) (b : Byte) : (s.writeIbuf i b).reply = s.reply := rfl

end Sys2Proof.Machine
end

