-- ==== Sys2Proof/Laws/Ops.lean ====
section
/-! SUPPORT. What the shared operations can do, each said once. -/

namespace Sys2Proof.Machine

variable {s s' : State}

theorem succeed_eq_next : succeed s = .next s' ↔ s' = s.setErr .none := by
  simp [succeed, eq_comm]

theorem raise_eq_next {e : ErrCode} : raise e s = .next s' ↔ s' = s.setErr e := by
  simp [raise, eq_comm]

theorem memRead_of_some {a n : Nat} {bs : List Byte} (h : s.ibuf.readN a n = some bs)
    (k : List Byte → Host.Outcome State Fault Refusal) : memRead s a n k = k bs := by
  simp [memRead, h]

theorem memRead_of_none {a n : Nat} (h : s.ibuf.readN a n = none)
    (k : List Byte → Host.Outcome State Fault Refusal) : memRead s a n k = .fault .uninitialisedRead := by
  simp [memRead, h]

/-- A command that goes on after a MemRead had all its bytes written. -/
theorem memRead_eq_next {a n : Nat} {k : List Byte → Host.Outcome State Fault Refusal} :
    memRead s a n k = .next s' ↔ ∃ bs, s.ibuf.readN a n = some bs ∧ k bs = .next s' := by
  unfold memRead; split <;> simp_all

theorem takeInLen_of_le (h : s.inLen.toNat ≤ Config.ibufSize)
    (k : Nat → Host.Outcome State Fault Refusal) : takeInLen s k = k s.inLen.toNat := by
  simp [takeInLen, Nat.not_lt.2 h]

theorem takeInLen_of_gt (h : Config.ibufSize < s.inLen.toNat)
    (k : Nat → Host.Outcome State Fault Refusal) : takeInLen s k = .next (s.setErr .capacity) := by
  simp [takeInLen, h, raise]

/-- A command that takes IN_LEN reports CAPACITY or goes on. -/
theorem takeInLen_eq_next {k : Nat → Host.Outcome State Fault Refusal} :
    takeInLen s k = .next s' ↔
      (Config.ibufSize < s.inLen.toNat ∧ s' = s.setErr .capacity) ∨
      (s.inLen.toNat ≤ Config.ibufSize ∧ k s.inLen.toNat = .next s') := by
  unfold takeInLen; split <;> simp_all [raise_eq_next]

/-- A command on the live chunk reports NO_CHUNK or goes on. -/
theorem requireChunk_eq_next {k : Host.Outcome State Fault Refusal} :
    requireChunk s k = .next s' ↔
      (s.chValid = false ∧ s' = s.setErr .noChunk) ∨ (s.chValid = true ∧ k = .next s') := by
  unfold requireChunk; cases s.chValid <;> simp [raise_eq_next]

@[simp] theorem mapNext_next (f : State → State) : mapNext f (.next s) = .next (f s) := rfl

@[simp] theorem mapNext_fault (f : State → State) (r : Fault) : mapNext f (.fault r) = .fault r := rfl

@[simp] theorem mapNext_refused (f : State → State) (r : Refusal) : mapNext f (.refused r) = .refused r := rfl

theorem mapNext_eq_next {f : State → State} {o : Host.Outcome State Fault Refusal} :
    mapNext f o = .next s' ↔ ∃ t, o = .next t ∧ s' = f t := by
  cases o <;> simp [mapNext, eq_comm]

end Sys2Proof.Machine
end

