-- ==== Sys2Proof/Laws/Bus.lean ====
section
/-! SUPPORT. What a host transaction, and so a step, can do. -/

namespace Sys2Proof.Machine

variable {s s' : State}

theorem issue_eq_transact (t : HostTxn) (s : State) : issue t s = transact t s := rfl

/-- While BUSY = 0 a transaction is its own operation. -/
theorem transact_of_idle (h : s.busy = false) (t : HostTxn) :
    transact t s = match t with
      | .regRead o bytes => hostRegRead o bytes s
      | .regWrite o bytes v => hostRegWrite o bytes v s
      | .ibufWrite i b => hostIbufWrite i b s
      | .ibufRead i => hostIbufRead i s
      | .obufRead i => hostObufRead i s
      | .reset => hostReset s := by
  unfold transact; rw [h]; rfl

theorem regAt_offset (r : Reg) : regAt r.offset = some r := by cases r <;> decide

theorem regAt_of_gt {o : Nat} (h : 0x2C < o) : regAt o = none := by
  unfold regAt registerMap
  simp only [List.lookup]
  repeat (split; · rename_i h'; simp at h'; omega)
  rfl

/-- A whole-word access at a register's own offset reaches that register. -/
theorem withReg_offset (r : Reg) (k : Reg → Host.Outcome State Fault Refusal) : withReg r.offset 4 k = k r := by
  unfold withReg
  rw [if_pos ⟨rfl, by cases r <;> decide⟩, regAt_offset]

/-- A CMD write while BUSY = 0 runs its command. -/
theorem transact_cmdWrite (h : s.busy = false) (v : Word) :
    transact (.regWrite 0x00 4 v) s = runCommand v (s.setReply none) := by
  rw [transact_of_idle h]; exact withReg_offset .cmd _

theorem withReg_eq_next {o bytes : Nat} {k : Reg → Host.Outcome State Fault Refusal} :
    withReg o bytes k = .next s' ↔ bytes = 4 ∧ o % 4 = 0 ∧ ∃ r, regAt o = some r ∧ k r = .next s' := by
  unfold withReg
  split
  · split <;> simp_all
  · rename_i h; constructor
    · intro h'; cases h'
    · rintro ⟨h₁, h₂, -⟩; exact absurd ⟨h₁, h₂⟩ h

theorem hostReadByte_eq_next {m : Memory} {i : Nat} :
    hostReadByte m i s = .next s' ↔ ∃ b, m.read i = some b ∧ s' = s.setReply (some (.byte b)) := by
  cases h : m.read i <;> simp [hostReadByte, h, eq_comm]

theorem regAt_eq_some {o : Nat} {r : Reg} (h : regAt o = some r) : o = r.offset := by
  unfold regAt registerMap at h
  simp only [List.lookup] at h
  repeat' split at h
  all_goals cases h
  all_goals exact beq_iff_eq.1 (by assumption)

/-- What a register write answers. -/
theorem writeReg_next {r : Reg} {v : Word} (h : writeReg r v s = .next s') :
    (r = .cmd ∧ runCommand v s = .next s') ∨ (r = .arg0 ∧ s' = s.setArg0 v) ∨ (r = .inLen ∧ s' = s.setInLen v) ∨
    (r ≠ .cmd ∧ r ≠ .arg0 ∧ r ≠ .inLen ∧ s' = s) := by
  cases r with
  | cmd => exact .inl ⟨rfl, h⟩
  | arg0 => cases h; exact .inr (.inl ⟨rfl, rfl⟩)
  | inLen => cases h; exact .inr (.inr (.inl ⟨rfl, rfl⟩))
  | _ => cases h; simp

/-- Every way a transaction can answer a next state. -/
theorem transact_next {t : HostTxn} (h : transact t s = .next s') :
    (∃ r, t = .regRead (Reg.offset r) 4 ∧ s' = s.setReply (some (.word (s.readReg r)))) ∨
    (∃ r v, t = .regWrite (Reg.offset r) 4 v ∧ s.busy = false ∧ writeReg r v (s.setReply none) = .next s') ∨
    (∃ i b, t = .ibufWrite i b ∧ s.busy = false ∧ i < Config.ibufSize ∧ s' = (s.writeIbuf i b).setReply none) ∨
    (∃ i b, t = .ibufRead i ∧ i < Config.ibufSize ∧ s.ibuf.read i = some b ∧ s' = s.setReply (some (.byte b))) ∨
    (∃ i b, t = .obufRead i ∧ i < Config.obufSize ∧ s.obuf.read i = some b ∧ s' = s.setReply (some (.byte b))) ∨
    (t = .reset ∧ s' = State.reset.setPending s.pending) := by
  unfold transact at h
  split at h
  · cases h
  · rename_i hb
    cases t with
    | regRead o bytes =>
      obtain ⟨rfl, -, r, hr, h⟩ := withReg_eq_next.1 h
      cases h
      exact .inl ⟨r, by rw [regAt_eq_some hr], rfl⟩
    | regWrite o bytes v =>
      obtain ⟨rfl, -, r, hr, h⟩ := withReg_eq_next.1 h
      exact .inr (.inl ⟨r, v, by rw [regAt_eq_some hr], by simpa [HostTxn.allowedWhileBusy] using hb, h⟩)
    | ibufWrite i b =>
      simp only [hostIbufWrite] at h
      split at h
      · cases h
      · cases h
        exact .inr (.inr (.inl ⟨i, b, rfl, by simpa [HostTxn.allowedWhileBusy] using hb, by omega, rfl⟩))
    | ibufRead i =>
      simp only [hostIbufRead] at h
      split at h
      · cases h
      · obtain ⟨b, hr, rfl⟩ := hostReadByte_eq_next.1 h
        exact .inr (.inr (.inr (.inl ⟨i, b, rfl, by omega, hr, rfl⟩)))
    | obufRead i =>
      simp only [hostObufRead] at h
      split at h
      · cases h
      · obtain ⟨b, hr, rfl⟩ := hostReadByte_eq_next.1 h
        exact .inr (.inr (.inr (.inr (.inl ⟨i, b, rfl, by omega, hr, rfl⟩))))
    | reset => cases h; exact .inr (.inr (.inr (.inr (.inr ⟨rfl, rfl⟩))))

/-- A command that ends: it was illegal, or its meaning answered a next state. -/
theorem runCommand_next {v : Word} (h : runCommand v s = .next s') :
    (∃ e, decode v = .error e ∧ s' = (((s.setCmd v).setBusy true).setErr .illegalCmd).setBusy false) ∨
    (∃ i t, decode v = .ok i ∧ exec i ((s.setCmd v).setBusy true) = .next t ∧ s' = t.setBusy false) := by
  unfold runCommand at h
  split at h
  · rename_i i hi
    obtain ⟨t, ht, rfl⟩ := mapNext_eq_next.1 h
    exact .inr ⟨i, t, hi, ht, rfl⟩
  · rename_i e he
    obtain ⟨t, ht, rfl⟩ := mapNext_eq_next.1 h
    rw [execIllegal, raise_eq_next] at ht
    subst ht
    exact .inl ⟨e, he, rfl⟩

/-- A step is idle or runs the next pending transaction. -/
theorem step_next (h : step s = .next s') :
    (s.pending = [] ∧ s' = s) ∨ ∃ t ts, s.pending = t :: ts ∧ transact t (s.setPending ts) = .next s' := by
  unfold step busStep at h
  split at h
  · rename_i hp; cases h; exact .inl ⟨hp, rfl⟩
  · rename_i t ts hp; exact .inr ⟨t, ts, hp, h⟩

end Sys2Proof.Machine
end

