-- ==== Sys2Proof/Laws/Exec.lean ====
section
/-! SUPPORT. One inversion lemma per command whose meaning has branches: if it answers a next state, which state it is.
The provers cite these instead of unfolding the meanings. -/

namespace Sys2Proof.Machine

variable {s s' : State}

theorem execTcText_next (h : execTcText s = .next s') :
    (Config.ibufSize < s.inLen.toNat ∧ s' = s.setErr .capacity) ∨
    (s.inLen.toNat ≤ Config.ibufSize ∧ s.inLen.toNat ≠ 4 ∧ s' = s.setErr .invalidFormat) ∨
    (s.inLen.toNat = 4 ∧ ∃ t, s.ibuf.readN 0 4 = some t ∧ t.all alpha = false ∧ s' = s.setErr .invalidFormat) ∨
    (s.inLen.toNat = 4 ∧ ∃ t, s.ibuf.readN 0 4 = some t ∧ t.all alpha = true ∧
      s' = (s.setType (be32 t)).setErr .none) := by
  rcases takeInLen_eq_next.1 h with h | ⟨hle, h⟩
  · exact .inl h
  · split at h
    · rename_i hn; exact .inr (.inl ⟨hle, hn, raise_eq_next.1 h⟩)
    · rename_i hn
      have hn : s.inLen.toNat = 4 := by simpa using hn
      obtain ⟨t, ht, h⟩ := memRead_eq_next.1 h
      split at h
      · rename_i ha; exact .inr (.inr (.inr ⟨hn, t, ht, ha, succeed_eq_next.1 h⟩))
      · rename_i ha; exact .inr (.inr (.inl ⟨hn, t, ht, by simpa using ha, raise_eq_next.1 h⟩))

theorem execChNew_next (h : execChNew s = .next s') :
    (Config.ibufSize < s.inLen.toNat ∧ s' = s.setErr .capacity) ∨
    (s.inLen.toNat ≤ Config.ibufSize ∧ s' = (s.setChunk s.inLen s.type 0#32).setErr .none) := by
  rcases takeInLen_eq_next.1 h with h | ⟨hle, h⟩
  · exact .inl h
  · exact .inr ⟨hle, succeed_eq_next.1 h⟩

theorem execChCrc_next (h : execChCrc s = .next s') :
    (s.chValid = false ∧ s' = s.setErr .noChunk) ∨
    (s.chValid = true ∧ ∃ d, s.ibuf.readN s.chOff.toNat s.chLen.toNat = some d ∧
      s' = (s.setAcc (chunkAcc s.chType d)).setErr .none) := by
  rcases requireChunk_eq_next.1 h with h | ⟨hv, h⟩
  · exact .inl h
  · obtain ⟨d, hd, h⟩ := memRead_eq_next.1 h
    exact .inr ⟨hv, d, hd, succeed_eq_next.1 h⟩

/-! ## The fields of the state ENCODE leaves -/

section
variable (s : State) (d : List Byte)

@[simp] theorem emitRecord_cmd : (emitRecord s d).cmd = s.cmd := rfl
@[simp] theorem emitRecord_arg0 : (emitRecord s d).arg0 = s.arg0 := rfl
@[simp] theorem emitRecord_inLen : (emitRecord s d).inLen = s.inLen := rfl
@[simp] theorem emitRecord_type : (emitRecord s d).type = s.type := rfl
@[simp] theorem emitRecord_chLen : (emitRecord s d).chLen = s.chLen := rfl
@[simp] theorem emitRecord_chType : (emitRecord s d).chType = s.chType := rfl
@[simp] theorem emitRecord_chOff : (emitRecord s d).chOff = s.chOff := rfl
@[simp] theorem emitRecord_chValid : (emitRecord s d).chValid = s.chValid := rfl
@[simp] theorem emitRecord_decLen : (emitRecord s d).decLen = s.decLen := rfl
@[simp] theorem emitRecord_expCrc : (emitRecord s d).expCrc = s.expCrc := rfl
@[simp] theorem emitRecord_crcMatch : (emitRecord s d).crcMatch = s.crcMatch := rfl
@[simp] theorem emitRecord_err : (emitRecord s d).err = s.err := rfl
@[simp] theorem emitRecord_busy : (emitRecord s d).busy = s.busy := rfl
@[simp] theorem emitRecord_ibuf : (emitRecord s d).ibuf = s.ibuf := rfl
@[simp] theorem emitRecord_pending : (emitRecord s d).pending = s.pending := rfl
@[simp] theorem emitRecord_reply : (emitRecord s d).reply = s.reply := rfl
@[simp] theorem emitRecord_acc : (emitRecord s d).acc = chunkAcc s.chType d := rfl
@[simp] theorem emitRecord_outLen : (emitRecord s d).outLen = BitVec.ofNat 32 (s.chLen.toNat + 12) := rfl

/-- The four MemWrites of R144 write the wire record. -/
theorem emitRecord_obuf (h : d.length = s.chLen.toNat) :
    (emitRecord s d).obuf = s.obuf.writeN 0 (wireRecord s.chType d) := by
  have h4 : ∀ v, (bytes32 v).length = 4 := fun _ => rfl
  rw [emitRecord, wireRecord, Memory.writeN_append, Memory.writeN_append, Memory.writeN_append]
  simp only [List.length_append, h4, h, BitVec.ofNat_toNat, BitVec.setWidth_eq, Nat.zero_add, Nat.reduceAdd]
  rfl

end

theorem execEncode_next (h : execEncode s = .next s') :
    (s.chValid = false ∧ s' = s.setErr .noChunk) ∨
    (s.chValid = true ∧ Config.obufSize < s.chLen.toNat + 12 ∧ s' = s.setErr .capacity) ∨
    (s.chValid = true ∧ s.chLen.toNat + 12 ≤ Config.obufSize ∧
      ∃ d, s.ibuf.readN s.chOff.toNat s.chLen.toNat = some d ∧ s' = (emitRecord s d).setErr .none) := by
  rcases requireChunk_eq_next.1 h with h | ⟨hv, h⟩
  · exact .inl h
  · split at h
    · rename_i hc; exact .inr (.inl ⟨hv, hc, raise_eq_next.1 h⟩)
    · rename_i hc
      obtain ⟨d, hd, h⟩ := memRead_eq_next.1 h
      exact .inr (.inr ⟨hv, by omega, d, hd, succeed_eq_next.1 h⟩)

/-- The state PARSE has when the comparator sees the two CRCs. -/
def parseDiag (s : State) (t d e : List Byte) : State :=
  (s.setAcc (crcFold crcInitial (t ++ d))).setExpCrc (be32 e)

theorem parseBody_next {len : Word} (h : parseBody s len = .next s') :
    ∃ t d e, s.ibuf.readN 4 4 = some t ∧ s.ibuf.readN 8 len.toNat = some d ∧
      s.ibuf.readN (8 + len.toNat) 4 = some e ∧
      ((crc32 (t ++ d) ≠ be32 e ∧ s' = (parseDiag s t d e).setErr .integrity) ∨
       (crc32 (t ++ d) = be32 e ∧
        s' = (((parseDiag s t d e).setCrcMatch true).setChunk len (be32 t) 8#32).setErr .none)) := by
  obtain ⟨t, ht, h⟩ := memRead_eq_next.1 h
  obtain ⟨d, hd, h⟩ := memRead_eq_next.1 h
  obtain ⟨e, he, h⟩ := memRead_eq_next.1 h
  refine ⟨t, d, e, ht, hd, he, ?_⟩
  simp only at h
  split at h
  · rename_i hne; exact .inl ⟨hne, raise_eq_next.1 h⟩
  · rename_i heq; exact .inr ⟨not_not.1 heq, succeed_eq_next.1 h⟩

theorem execParse_next (h : execParse s = .next s') :
    (Config.ibufSize < s.inLen.toNat ∧ s' = (s.setCrcMatch false).setErr .capacity) ∨
    (s.inLen.toNat < 4 ∧ s' = (s.setCrcMatch false).setErr .truncated) ∨
    (4 ≤ s.inLen.toNat ∧ s.inLen.toNat ≤ Config.ibufSize ∧ ∃ l, s.ibuf.readN 0 4 = some l ∧
      ((s.inLen.toNat < 12 + (be32 l).toNat ∧
          s' = ((s.setCrcMatch false).setDecLen (be32 l)).setErr .truncated) ∨
       (12 + (be32 l).toNat ≤ s.inLen.toNat ∧
          parseBody ((s.setCrcMatch false).setDecLen (be32 l)) (be32 l) = .next s'))) := by
  unfold execParse at h
  dsimp only at h
  rcases takeInLen_eq_next.1 h with h | ⟨hle, h⟩
  · exact .inl h
  · rw [State.setCrcMatch_inLen] at hle h
    by_cases hn : s.inLen.toNat < 4
    · rw [if_pos hn] at h; exact .inr (.inl ⟨hn, raise_eq_next.1 h⟩)
    · rw [if_neg hn] at h
      obtain ⟨l, hl, h⟩ := memRead_eq_next.1 h
      refine .inr (.inr ⟨by omega, hle, l, hl, ?_⟩)
      by_cases ht : s.inLen.toNat < 12 + (be32 l).toNat
      · rw [if_pos ht] at h; exact .inl ⟨ht, raise_eq_next.1 h⟩
      · rw [if_neg ht] at h; exact .inr ⟨by omega, h⟩

/-! ## How a command can end: in a next state, or faulting on an unwritten byte -/

/-- The two ways. -/
def EndsOrUninitialised (o : Host.Outcome State Fault Refusal) : Prop :=
  (∃ s', o = .next s') ∨ o = .fault .uninitialisedRead

theorem succeed_ends (s : State) : EndsOrUninitialised (succeed s) := .inl ⟨_, rfl⟩

theorem raise_ends (e : ErrCode) (s : State) : EndsOrUninitialised (raise e s) := .inl ⟨_, rfl⟩

theorem memRead_ends (s : State) (a n : Nat) {k : List Byte → Host.Outcome State Fault Refusal}
    (h : ∀ bs, EndsOrUninitialised (k bs)) : EndsOrUninitialised (memRead s a n k) := by
  unfold memRead
  split
  · exact h _
  · exact .inr rfl

theorem takeInLen_ends (s : State) {k : Nat → Host.Outcome State Fault Refusal}
    (h : ∀ n, EndsOrUninitialised (k n)) : EndsOrUninitialised (takeInLen s k) := by
  unfold takeInLen
  split
  · exact raise_ends _ _
  · exact h _

theorem requireChunk_ends (s : State) {k : Host.Outcome State Fault Refusal} (h : EndsOrUninitialised k) :
    EndsOrUninitialised (requireChunk s k) := by
  unfold requireChunk
  split
  · exact h
  · exact raise_ends _ _

/-- Every command ends in a next state or as an uninitialised read; none is refused. -/
theorem exec_ends (i : Instr) (s : State) : EndsOrUninitialised (exec i s) := by
  cases i with
  | nop => exact succeed_ends _
  | crcInit => exact succeed_ends _
  | crcByte => exact succeed_ends _
  | tcRaw => exact succeed_ends _
  | tcText =>
    unfold exec execTcText
    refine takeInLen_ends _ fun n => ?_
    split
    · exact raise_ends _ _
    · exact memRead_ends _ _ _ fun t => by split; exacts [succeed_ends _, raise_ends _ _]
  | chNew =>
    unfold exec execChNew
    exact takeInLen_ends _ fun _ => succeed_ends _
  | chCrc =>
    unfold exec execChCrc
    exact requireChunk_ends _ (memRead_ends _ _ _ fun _ => succeed_ends _)
  | parse =>
    unfold exec execParse
    refine takeInLen_ends _ fun n => ?_
    split
    · exact raise_ends _ _
    · refine memRead_ends _ _ _ fun l => ?_
      dsimp only
      split
      · exact raise_ends _ _
      · refine memRead_ends _ _ _ fun t => memRead_ends _ _ _ fun d => ?_
        exact memRead_ends _ _ _ fun e => by dsimp only; split; exacts [raise_ends _ _, succeed_ends _]
  | encode =>
    unfold exec execEncode
    refine requireChunk_ends _ ?_
    split
    · exact raise_ends _ _
    · exact memRead_ends _ _ _ fun _ => succeed_ends _

end Sys2Proof.Machine
end

