-- ==== Sys2Proof/Laws/Pending.lean ====
section
/-! SUPPORT. The host's pending list is no business of a command or a transaction: each commutes with setting it. -/

namespace Sys2Proof.Machine

variable (s : State) (ts : List HostTxn)

theorem memRead_setPending (a n : Nat) {k k' : List Byte → Host.Outcome State Fault Refusal}
    (h : ∀ bs, k' bs = mapNext (·.setPending ts) (k bs)) :
    memRead (s.setPending ts) a n k' = mapNext (·.setPending ts) (memRead s a n k) := by
  unfold memRead
  rw [State.setPending_ibuf]
  cases s.ibuf.readN a n with
  | none => rfl
  | some bs => exact h bs

theorem takeInLen_setPending {k k' : Nat → Host.Outcome State Fault Refusal}
    (h : ∀ n, k' n = mapNext (·.setPending ts) (k n)) :
    takeInLen (s.setPending ts) k' = mapNext (·.setPending ts) (takeInLen s k) := by
  unfold takeInLen
  rw [State.setPending_inLen]
  split
  · rfl
  · exact h _

theorem requireChunk_setPending {k k' : Host.Outcome State Fault Refusal} (h : k' = mapNext (·.setPending ts) k) :
    requireChunk (s.setPending ts) k' = mapNext (·.setPending ts) (requireChunk s k) := by
  unfold requireChunk
  rw [State.setPending_chValid]
  split
  · exact h
  · rfl

theorem exec_setPending (i : Instr) : exec i (s.setPending ts) = mapNext (·.setPending ts) (exec i s) := by
  cases i with
  | nop => rfl
  | crcInit => rfl
  | crcByte => rfl
  | tcRaw => rfl
  | tcText =>
    unfold exec execTcText
    refine takeInLen_setPending _ _ fun n => ?_
    split
    · rfl
    · exact memRead_setPending _ _ _ _ fun t => by split <;> rfl
  | chNew =>
    unfold exec execChNew
    exact takeInLen_setPending _ _ fun n => rfl
  | chCrc =>
    unfold exec execChCrc
    exact requireChunk_setPending _ _ (memRead_setPending _ _ _ _ fun t => rfl)
  | parse =>
    unfold exec execParse
    refine takeInLen_setPending (s.setCrcMatch false) _ fun n => ?_
    split
    · rfl
    · refine memRead_setPending (s.setCrcMatch false) _ _ _ fun l => ?_
      dsimp only
      split
      · rfl
      · refine memRead_setPending ((s.setCrcMatch false).setDecLen _) _ _ _ fun t => ?_
        refine memRead_setPending ((s.setCrcMatch false).setDecLen _) _ _ _ fun d => ?_
        dsimp only
        exact memRead_setPending ((s.setCrcMatch false).setDecLen _) _ _ _ fun e => by split <;> rfl
  | encode =>
    unfold exec execEncode
    refine requireChunk_setPending _ _ ?_
    rw [State.setPending_chLen]
    split
    · rfl
    · exact memRead_setPending _ _ _ _ fun d => by unfold emitRecord; rfl

theorem runCommand_setPending (v : Word) :
    runCommand v (s.setPending ts) = mapNext (·.setPending ts) (runCommand v s) := by
  unfold runCommand endCommand
  split
  · rename_i i _
    change mapNext _ (exec i ((startCommand v s).setPending ts)) = _
    rw [exec_setPending]
    cases exec i (startCommand v s) <;> rfl
  · rfl

theorem transact_setPending (t : HostTxn) :
    transact t (s.setPending ts) = mapNext (·.setPending ts) (transact t s) := by
  unfold transact
  rw [State.setPending_busy]
  split
  · rfl
  · cases t with
    | regRead o b =>
      simp only [hostRegRead, withReg]
      split
      · split
        · rename_i r _; cases r <;> rfl
        · rfl
      · rfl
    | regWrite o b v =>
      simp only [hostRegWrite, withReg]
      split
      · split
        · rename_i r _
          cases r with
          | cmd => exact runCommand_setPending (s.setReply none) ts v
          | _ => rfl
        · rfl
      · rfl
    | ibufWrite i b => simp only [hostIbufWrite]; split <;> rfl
    | ibufRead i => simp only [hostIbufRead, hostReadByte, State.setPending_ibuf]; split; rfl; split <;> rfl
    | obufRead i => simp only [hostObufRead, hostReadByte, State.setPending_obuf]; split; rfl; split <;> rfl
    | reset => rfl

/-- A transaction leaves the rest of the pending list alone. -/
theorem transact_keeps_pending {s s' : State} {t : HostTxn} (h : transact t s = .next s') :
    s'.pending = s.pending := by
  have h' := transact_setPending s s.pending t
  rw [show s.setPending s.pending = s from rfl, h, mapNext_next] at h'
  injection h' with h'
  rw [h']; rfl

end Sys2Proof.Machine
end

