-- ==== Sys2Proof/Laws/PerInstr.lean ====
section
/-! SUPPORT. Statements about every command as syntax, one lemma per constructor. -/

namespace Sys2Proof.Laws.EncodeSelectsOwnRow

/-- The command is well-formed, its fields make a legal word, and its word selects the row of its own mnemonic in the
opcode table (spec/30_encoding.md R71). -/
def Statement (i : Instr) : Prop :=
  i.WellFormed = true ∧ i.fields.WellFormed = true ∧
    ∃ r ∈ opcodeTable, r.mnemonic = i.mnemonic ∧ r.selects (encode i) = true

theorem nop : Statement .nop := ⟨rfl, by decide, by decide⟩
theorem crcInit : Statement .crcInit := ⟨rfl, by decide, by decide⟩
theorem crcByte (b : Byte) : Statement (.crcByte b) := by
  refine ⟨rfl, by simp [Instr.fields, Cmd32.WellFormed, Cmd32.rsvOk, Cmd32.opOk, Cmd32.immOk, assignedOps],
    ⟨"CRC_BYTE", 0x00000002#32, 0xFFFF00FF#32⟩, by simp [opcodeTable], rfl, ?_⟩
  revert b; decide
theorem tcRaw : Statement .tcRaw := ⟨rfl, by decide, by decide⟩
theorem tcText : Statement .tcText := ⟨rfl, by decide, by decide⟩
theorem chNew : Statement .chNew := ⟨rfl, by decide, by decide⟩
theorem chCrc : Statement .chCrc := ⟨rfl, by decide, by decide⟩
theorem parse : Statement .parse := ⟨rfl, by decide, by decide⟩
theorem encode : Statement .encode := ⟨rfl, by decide, by decide⟩

end Sys2Proof.Laws.EncodeSelectsOwnRow
end

