-- ==== Sys2Proof/Tests/Slice0.lean ====
section
/-! SUPPORT. Tests of the model. Expected results come from the spec: command words from spec/30_encoding.md R70 and R71,
the vectors S, C, T, K, P, X from spec/95_test_vectors.md. Then, for each statement of Obligations that has hypotheses, a
witness: concrete states and operands that meet them together, clause by clause. -/

namespace Sys2Proof.Tests

open Sys2Proof.Machine

/-! ## Helpers -/

/-- The outcome is a next state for which `p` holds. -/
def ends (o : Host.Outcome State Fault Refusal) (p : State → Bool) : Bool :=
  match o with
  | .next s => p s
  | .fault _ => false
  | .refused _ => false

/-- The outcome is the given fault. -/
def faults (o : Host.Outcome State Fault Refusal) (f : Fault) : Bool :=
  match o with
  | .next _ => false
  | .fault g => g == f
  | .refused _ => false

/-- The reset state with bytes in IBUF from 0 and a value in IN_LEN. -/
def loaded (bs : List Byte) (n : Word) : State :=
  { State.reset with ibuf := Memory.writeN [] 0 bs, inLen := n }

/-- The frame of P7: IEND with no payload. -/
def iendFrame : List Byte :=
  [0x00#8, 0x00#8, 0x00#8, 0x00#8, 0x49#8, 0x45#8, 0x4E#8, 0x44#8, 0xAE#8, 0x42#8, 0x60#8, 0x82#8]

/-- IBUF holds P7's frame and IN_LEN is its length. -/
def iend : State := loaded iendFrame 12#32

/-- A live chunk at IBUF[off ..], its bytes those of `bs`. -/
def live (bs : List Byte) (len off : Word) : State :=
  { loaded bs 0#32 with chValid := true, chLen := len, chOff := off }

/-- P7's state after PARSE: a live chunk with its frame, DEC_LEN, EXP_CRC. -/
def parsed : State :=
  { iend with
    chValid := true, chLen := 0#32, chOff := 8#32, chType := 0x49454E44#32, decLen := 0#32
    expCrc := 0xAE426082#32, crcMatch := true, acc := 0x51BD9F7D#32 }

/-! ## Well-formedness: one ill-formed term for each check -/

theorem test_wellFormed_rsv : (Cmd32.mk 0x0001#16 0x00#8 0x00#8).WellFormed = false
    ∧ (Cmd32.mk 0x0001#16 0x00#8 0x00#8).opOk = true ∧ (Cmd32.mk 0x0001#16 0x00#8 0x00#8).immOk = true := by decide

theorem test_wellFormed_op : (Cmd32.mk 0#16 0x00#8 0x03#8).WellFormed = false
    ∧ (Cmd32.mk 0#16 0x00#8 0x03#8).rsvOk = true ∧ (Cmd32.mk 0#16 0x00#8 0x03#8).immOk = true := by decide

theorem test_wellFormed_imm : (Cmd32.mk 0#16 0x01#8 0x01#8).WellFormed = false
    ∧ (Cmd32.mk 0#16 0x01#8 0x01#8).rsvOk = true ∧ (Cmd32.mk 0#16 0x01#8 0x01#8).opOk = true := by decide

theorem test_wellFormed_good : (Cmd32.mk 0#16 0xFF#8 0x02#8).WellFormed = true ∧ (Instr.crcByte 0xFF#8).WellFormed = true := by
  decide

/-! ## Decoding: each command's word, bit by bit, from RSV [31:16] | IMM8 [15:8] | OP [7:0] -/

theorem test_decode_nop : decode 0b0000000000000000_00000000_00000000#32 = .ok .nop := by decide
theorem test_decode_crcInit : decode 0b0000000000000000_00000000_00000001#32 = .ok .crcInit := by decide
theorem test_decode_crcByte : decode 0b0000000000000000_01000001_00000010#32 = .ok (.crcByte 0b01000001#8) := by decide
theorem test_decode_tcRaw : decode 0b0000000000000000_00000000_00010000#32 = .ok .tcRaw := by decide
theorem test_decode_tcText : decode 0b0000000000000000_00000000_00010001#32 = .ok .tcText := by decide
theorem test_decode_chNew : decode 0b0000000000000000_00000000_00100000#32 = .ok .chNew := by decide
theorem test_decode_chCrc : decode 0b0000000000000000_00000000_00100001#32 = .ok .chCrc := by decide
theorem test_decode_parse : decode 0b0000000000000000_00000000_00110000#32 = .ok .parse := by decide
theorem test_decode_encode : decode 0b0000000000000000_00000000_01000000#32 = .ok .encode := by decide

/-- X2 to X6. -/
theorem test_decode_illegal :
    decode 0x00000003#32 = .error .opcodeUnassigned ∧ decode 0x000000FF#32 = .error .opcodeUnassigned
      ∧ decode 0x00000041#32 = .error .opcodeUnassigned ∧ decode 0x00000012#32 = .error .opcodeUnassigned
      ∧ decode 0x00000101#32 = .error .immNonzero ∧ decode 0x00010000#32 = .error .reservedNonzero := by decide

theorem test_decodeTableWord : decodeTableWord 32 0x00004102 = some (.crcByte 0x41#8)
    ∧ decodeTableWord 32 0x00000003 = none ∧ decodeTableWord 8 0x40 = some .encode := by decide

/-! ## Reset and the bus -/

/-- X12. -/
theorem test_reset_registers :
    registerMap.all (fun p => State.reset.readReg p.2 == if p.1 = 0x08 then 0x00000770#32 else 0#32) = true
      ∧ State.reset.acc = 0xFFFFFFFF#32 := by decide

/-- X10, X11 at any IBUF_SIZE, and R39's sub-word access. -/
theorem test_bus_faults :
    faults (issue (.regRead 0x30 4) State.reset) (.hostProtocol .unmappedRegister) = true
      ∧ faults (issue (.regRead 0x08 1) State.reset) (.hostProtocol .subwordAccess) = true
      ∧ issue (.ibufWrite Config.ibufSize 0x00#8) State.reset = .fault (.hostProtocol .ibufOutOfRange) :=
  ⟨by decide, by decide, if_pos (Nat.le_refl _)⟩

/-- T19: a write to a read-only register is ignored. -/
theorem test_readOnly_write :
    ends (issue (.regWrite 0x10 4 0x12345678#32) State.reset) (fun t => t.type == 0#32 && t.err == 0#4) = true := by decide

/-- R55: an IBUF write ends the live chunk, also past its payload (K11). -/
theorem test_ibufWrite_ends_chunk :
    ends (issue (.ibufWrite 10 0x00#8) (live [0x61#8, 0x62#8, 0x63#8] 3#32 0#32))
      (fun t => !t.chValid && t.chLen == 3#32 && t.ibuf.read 10 == some 0x00#8 && t.ibuf.read 2 == some 0x63#8) = true := by
  decide +kernel

/-- One step runs the word `withFetchWord` places: C14's word straight after reset. -/
theorem test_step_fetchWord :
    ends (step (State.reset.withFetchWord 32 0x00004102))
      (fun t => t.acc == 0x2C266174#32 && t.cmd == 0x00004102#32 && !t.busy && t.err == 0#4) = true := by decide +kernel

/-- X2: an illegal word. -/
theorem test_illegal_command :
    ends (issue (.regWrite 0x00 4 0x00000003#32) State.reset)
      (fun t => t.status == 0x00070770#32 && t.cmd == 0x00000003#32 && t.acc == 0xFFFFFFFF#32) = true := by decide

/-! ## The commands -/

/-- X1. -/
theorem test_nop : ends (exec .nop { State.reset with err := 1#4 }) (fun t => t.status == 0x00000770#32) = true := by decide

/-- C2. -/
theorem test_crcInit : ends (exec .crcInit { State.reset with acc := 0x12345678#32 })
    (fun t => t.crcOut == 0#32 && t.acc == 0xFFFFFFFF#32) = true := by decide

/-- X7. -/
theorem test_crcByte : ends (exec (.crcByte 0x01#8) State.reset)
    (fun t => t.acc == 0x5AFA20E4#32 && t.crcOut == 0xA505DF1B#32) = true := by decide +kernel

/-- T8: byte 2 is `1`, whose bit 5 is set. -/
theorem test_tcRaw : ends (exec .tcRaw { State.reset with arg0 := 0x52753174#32 })
    (fun t => t.type == 0x52753174#32 && t.status == 0x00000710#32) = true := by decide

/-- S4. -/
theorem test_tcText_ok : ends (exec .tcText (loaded [0x72#8, 0x75#8, 0x53#8, 0x74#8] 4#32))
    (fun t => t.type == 0x72755374#32 && t.status == 0x00000760#32) = true := by decide +kernel

/-- S5 and T9. -/
theorem test_tcText_invalid :
    ends (exec .tcText (loaded [0x52#8, 0x75#8, 0x31#8, 0x74#8] 4#32))
        (fun t => t.type == 0#32 && t.status == 0x00010770#32) = true
      ∧ ends (exec .tcText (loaded [0x52#8, 0x75#8, 0x53#8, 0x74#8, 0x78#8] 5#32))
        (fun t => t.status == 0x00010770#32) = true := ⟨by decide +kernel, by decide +kernel⟩

/-- K3. -/
theorem test_chNew : ends (exec .chNew State.reset)
    (fun t => t.chValid && t.chLen == 0#32 && t.chOff == 0#32 && t.acc == 0xFFFFFFFF#32
      && t.status == 0x00000772#32) = true := by decide +kernel

/-- K12: the payload's bytes follow the type's in the CRC. -/
theorem test_chCrc : ends (exec .chCrc { live [0x52#8, 0x75#8, 0x53#8, 0x74#8] 4#32 0#32 with chType := 0x52755374#32 })
    (fun t => t.crcOut == 0xBFF93E28#32 && t.err == 0#4) = true := by decide +kernel

/-- K1. -/
theorem test_chCrc_noChunk : ends (exec .chCrc State.reset)
    (fun t => t.status == 0x00050770#32 && t.acc == 0xFFFFFFFF#32) = true := by decide

/-- K6. -/
theorem test_encode : ends (exec .encode { live [] 0#32 0#32 with chType := 0x49454E44#32 })
    (fun t => t.outLen == 12#32 && t.obuf.readN 0 12 == some iendFrame && t.crcOut == 0xAE426082#32) = true := by
  decide +kernel

/-- K9: bytes past the record keep what an earlier ENCODE wrote. -/
theorem test_encode_stale : ends (exec .encode
      { live [] 0#32 0#32 with obuf := Memory.writeN [] 11 [0x54#8, 0x20#8, 0x69#8] })
    (fun t => t.obuf.read 12 == some 0x20#8 && t.obuf.read 11 == some 0x1C#8) = true := by decide +kernel

/-- P7. -/
theorem test_parse : ends (exec .parse iend)
    (fun t => t.chLen == 0#32 && t.chType == 0x49454E44#32 && t.chOff == 8#32 && t.expCrc == 0xAE426082#32
      && t.crcOut == 0xAE426082#32 && t.status == 0x00000776#32) = true := by decide +kernel

/-- P9, P17: a length that must not wrap, and an unwritten frame. -/
theorem test_parse_stops :
    ends (exec .parse (loaded [0xFF#8, 0xFF#8, 0xFF#8, 0xF8#8, 0#8, 0#8, 0#8, 0#8, 0#8, 0#8, 0#8, 0#8] 12#32))
        (fun t => t.err == 3#4 && t.decLen == 0xFFFFFFF8#32) = true
      ∧ faults (exec .parse (loaded [] 12#32)) .uninitialisedRead = true := ⟨by decide +kernel, by decide +kernel⟩

/-! ## Witnesses: concrete states and operands that meet the hypotheses of the statements, clause by clause -/

/-- A decidable check of a whole outcome: what a witness of "exec answers next t" needs. -/
theorem ends_next {o : Host.Outcome State Fault Refusal} {p : State → Bool} (h : ends o p = true) :
    ∃ t, o = .next t ∧ p t = true := by
  cases o with
  | next t => exact ⟨t, rfl, h⟩
  | fault _ => cases h
  | refused _ => cases h

theorem witness_AtMostOneOpcodeRowMatches :
    ⟨"CRC_BYTE", 0x00000002#32, 0xFFFF00FF#32⟩ ∈ opcodeTable ∧ 0x0000FF02#32 &&& 0xFFFF00FF#32 = 0x00000002#32
      ∧ ⟨"ENCODE", 0x00000040#32, 0xFFFFFFFF#32⟩ ∈ opcodeTable
      ∧ 0x00000040#32 &&& 0xFFFFFFFF#32 = 0x00000040#32 := by decide

/-- A word of each kind of R73, and a legal word that is none. -/
theorem witness_IllegalWordsAreThoseTheDecodeRuleNames :
    0x00010000 / 65536 ≠ 0 ∧ 0x00000003 % 256 ∉ [0x00, 0x01, 0x02, 0x10, 0x11, 0x20, 0x21, 0x30, 0x40]
      ∧ (0x00000101 % 256 ≠ 0x02 ∧ 0x00000101 / 256 % 256 ≠ 0)
      ∧ (∃ e, decode 0x00010000#32 = .error e) ∧ (∃ e, decode 0x00000003#32 = .error e)
      ∧ (∃ e, decode 0x00000101#32 = .error e) ∧ ¬ ∃ e, decode 0x0000FF02#32 = .error e :=
  ⟨by decide, by decide, by decide, ⟨_, rfl⟩, ⟨_, rfl⟩, ⟨_, rfl⟩, nofun⟩

/-- BUSY = 0 and a legal CMD write pending, with another transaction behind it. -/
theorem witness_StepRunsTheDecodedCommand :
    State.reset.busy = false
      ∧ { iend with pending := [.regWrite 0x00 4 0x00000030#32, .reset] }.pending
        = .regWrite 0x00 4 0x00000030#32 :: [.reset]
      ∧ decode 0x00000030#32 = .ok .parse := by decide

/-- A CMD write that completes: a legal word, and an illegal one. -/
theorem witness_CmdHoldsTheLastWordWritten :
    State.reset.busy = false
      ∧ (∃ t, issue (.regWrite 0x00 4 0x00004102#32) State.reset = .next t ∧ (t.cmd == 0x00004102#32) = true)
      ∧ ∃ t, issue (.regWrite 0x00 4 0xFFFFFFFF#32) State.reset = .next t ∧ (t.cmd == 0xFFFFFFFF#32) = true :=
  ⟨rfl, ends_next (by decide +kernel), ends_next (by decide +kernel)⟩

theorem witness_IllegalCommandReportsOnlyIllegalCmd :
    parsed.busy = false ∧ decode 0x00000003#32 = .error .opcodeUnassigned := by decide

theorem witness_StepsTakeTransactionsInHostOrder : State.reset.pending = [] := by decide

/-- BUSY = 0, and offsets and sizes of each clause at its boundary. -/
theorem witness_RegisterAccesses :
    State.reset.busy = false
      ∧ (4 = 4 ∧ 0x30 % 4 = 0 ∧ 0x2C < 0x30)
      ∧ (2 ≠ 4 ∧ 0x2C % 4 = 0 ∧ 0x2C ≤ 0x2C) ∧ (1 ≠ 4 ∧ 0x00 % 4 = 0 ∧ 0x00 ≤ 0x2C)
      ∧ ((1 ≠ 4 ∧ 0x2C < 0x30) ∨ 0x30 % 4 ≠ 0) ∧ ((4 ≠ 4 ∧ 0x2C < 0x2E) ∨ 0x2E % 4 ≠ 0) := by decide

theorem witness_StatusBitsAreTheTable : iend.busy = false := by decide +kernel

/-- An index just out of range, and the last one in range: unwritten, and written. -/
theorem witness_BufferAccesses :
    State.reset.busy = false ∧ Config.ibufSize ≤ Config.ibufSize ∧ Config.ibufSize - 1 < Config.ibufSize
      ∧ State.reset.ibuf.read (Config.ibufSize - 1) = none
      ∧ 11 < Config.ibufSize ∧ iend.ibuf.read 11 = some 0x82#8
      ∧ Config.obufSize ≤ Config.obufSize ∧ Config.obufSize - 1 < Config.obufSize
      ∧ State.reset.obuf.read (Config.obufSize - 1) = none
      ∧ { State.reset with obuf := [(0, 0x21#8)] }.obuf.read 0 = some 0x21#8 ∧ 0 < Config.obufSize := by
  have h₁ := Config.ibufSize_ge
  have h₂ := Config.obufSize_ge
  exact ⟨rfl, Nat.le_refl _, by omega, rfl, by omega, by decide +kernel, Nat.le_refl _, by omega, rfl, by decide, by omega⟩

/-- A transaction that is no ENCODE, and an ENCODE with an address past its record. -/
theorem witness_ObufBytesStayUntilEncodeOrReset :
    (∃ t, issue (.ibufWrite 0 0x41#8) State.reset = .next t ∧ true = true)
      ∧ HostTxn.ibufWrite 0 0x41#8 ≠ .reset ∧ HostTxn.ibufWrite 0 0x41#8 ≠ .regWrite 0x00 4 (encode .encode)
      ∧ (∃ t, issue (.regWrite 0x00 4 (encode .encode)) (live [] 0#32 0#32) = .next t ∧ true = true)
      ∧ (live [] 0#32 0#32).chLen.toNat + 12 ≤ 12 :=
  ⟨ends_next (p := fun _ => true) (by decide +kernel), by decide, by decide,
    ends_next (p := fun _ => true) (by decide +kernel), by decide⟩

/-- BUSY = 1 and transactions it forbids, among them STATUS reads of a size just below and above 4. A state that meets the
third clause's hypothesis is `inv_live`'s, below. -/
theorem witness_BusyAccessFaultsAndIsUnreachable :
    { State.reset with busy := true }.busy = true
      ∧ ∀ t ∈ [HostTxn.regRead 0x00 4, .regRead 0x08 3, .regRead 0x08 5, .regWrite 0x08 4 0#32, .regRead 0x30 4,
          .ibufRead Config.ibufSize], t ≠ .reset ∧ t ≠ .regRead 0x08 4 := by simp

theorem witness_FeedingBytesComputesTheirCrc : iend.busy = false := by decide +kernel

theorem witness_CrcDetectsEveryOneByteError : (0x00#8 : Byte) ≠ 0x01#8 := by decide

/-- IN_LEN above IBUF_SIZE, other than 4, and 4 with unwritten bytes, with letters at the ends of their ranges, and with
bytes just outside them (T11, T12, T13, T14). -/
theorem witness_TcTextLoadsFourLettersOrReports :
    Config.ibufSize < (loaded [] 0xFFFFFFFF#32).inLen.toNat
      ∧ (loaded [] 5#32).inLen.toNat ≤ Config.ibufSize ∧ (loaded [] 5#32).inLen.toNat ≠ 4
      ∧ (loaded [] 4#32).inLen.toNat = 4 ∧ ¬ (loaded [] 4#32).Written 0 4
      ∧ (loaded [0x41#8, 0x5A#8, 0x61#8, 0x7A#8] 4#32).ibuf.readN 0 4 = some [0x41#8, 0x5A#8, 0x61#8, 0x7A#8]
      ∧ (Letter 0x41#8 ∧ Letter 0x5A#8 ∧ Letter 0x61#8 ∧ Letter 0x7A#8)
      ∧ (loaded [0x40#8, 0x5B#8, 0x60#8, 0x7B#8] 4#32).ibuf.readN 0 4 = some [0x40#8, 0x5B#8, 0x60#8, 0x7B#8]
      ∧ ¬ (Letter 0x40#8 ∧ Letter 0x5B#8 ∧ Letter 0x60#8 ∧ Letter 0x7B#8) := by
  have h₁ := Config.ibufSize_ge
  have h₂ := Config.ibufSize_le
  refine ⟨?_, ?_, by decide, by decide, fun h => ?_, by decide +kernel, ?_, by decide +kernel, ?_⟩
  · change Config.ibufSize < 4294967295; omega
  · change 5 ≤ Config.ibufSize; omega
  · exact absurd (h 0 (by decide)) (by decide)
  · unfold Letter UpperLetter; decide
  · unfold Letter UpperLetter; decide

theorem witness_TextTypeFlagsAreUpperCase :
    (∃ t, exec .tcText (loaded [0x52#8, 0x75#8, 0x53#8, 0x74#8] 4#32) = .next t ∧ (t.err == 0#4) = true)
      ∧ (loaded [0x52#8, 0x75#8, 0x53#8, 0x74#8] 4#32).ibuf.readN 0 4 = some [0x52#8, 0x75#8, 0x53#8, 0x74#8] :=
  ⟨ends_next (by decide +kernel), by decide +kernel⟩

/-- IN_LEN just above IBUF_SIZE, and IBUF_SIZE itself. -/
theorem witness_ChNewBuildsTheChunk :
    Config.ibufSize < (loaded [] (BitVec.ofNat 32 (Config.ibufSize + 1))).inLen.toNat
      ∧ (loaded [] (BitVec.ofNat 32 Config.ibufSize)).inLen.toNat ≤ Config.ibufSize := by
  have h := Config.ibufSize_le
  simp only [loaded, BitVec.toNat_ofNat]
  omega

/-- No chunk, a chunk with an unwritten payload byte (K13), one with its payload written, and an empty one. -/
theorem witness_ChCrcComputesTheChunkCrc :
    State.reset.chValid = false
      ∧ ((live [] 5#32 0#32).chValid = true ∧ ¬ (live [] 5#32 0#32).Written 0 5)
      ∧ ((live [0x61#8] 1#32 0#32).chValid = true ∧ (live [0x61#8] 1#32 0#32).ibuf.readN 0 1 = some [0x61#8])
      ∧ (live [] 0#32 0#32).ibuf.readN 0 0 = some [] :=
  ⟨rfl, ⟨rfl, fun h => absurd (h 0 (by decide)) (by decide)⟩, ⟨rfl, by decide +kernel⟩, rfl⟩

theorem witness_WireRecordHasTheFrameLayout : [0x61#8, 0x62#8].length < 2 ^ 32 := by decide

/-- As for CH_CRC; and a length no run gives a live chunk, for the CAPACITY clause. -/
theorem witness_EncodeEmitsTheWireRecord :
    State.reset.chValid = false
      ∧ ((live [] 0xFFFFFFFF#32 0#32).chValid = true
        ∧ Config.obufSize < (live [] 0xFFFFFFFF#32 0#32).chLen.toNat + 12)
      ∧ ((live [] 5#32 0#32).chLen.toNat + 12 ≤ Config.obufSize ∧ ¬ (live [] 5#32 0#32).Written 0 5)
      ∧ ((live [0x61#8] 1#32 0#32).chValid = true ∧ (live [0x61#8] 1#32 0#32).chLen.toNat + 12 ≤ Config.obufSize
        ∧ (live [0x61#8] 1#32 0#32).ibuf.readN 0 1 = some [0x61#8]) := by
  have h₁ := Config.ibufSize_ge
  have h₂ := Config.obufSize_ge
  have h₃ := Config.obufSize_le
  refine ⟨rfl, ⟨rfl, ?_⟩, ⟨?_, fun h => absurd (h 0 (by decide)) (by decide)⟩, ⟨rfl, ?_, by decide +kernel⟩⟩
  · change Config.obufSize < 4294967295 + 12; omega
  · change 5 + 12 ≤ Config.obufSize; omega
  · change 1 + 12 ≤ Config.obufSize; omega

/-- A state of the invariant with a live chunk and a written payload byte. -/
theorem inv_live : (live [0x61#8] 1#32 0#32).Inv where
  ibufWf := by decide +kernel
  ibufBelow := by
    have h := Config.ibufSize_ge
    intro c hc
    rw [show (live [0x61#8] 1#32 0#32).ibuf = [(0, 0x61#8)] by decide +kernel, List.mem_singleton] at hc
    subst hc; change 0 < Config.ibufSize; omega
  obufWf := by decide
  obufBelow := by intro c hc; cases hc
  idle := rfl
  errProduced := by decide
  chunkFits := fun _ => by have h := Config.ibufSize_ge; change 0 + 1 ≤ Config.ibufSize; omega
  chunkOff := fun _ => .inl rfl
  outFits := Nat.zero_le _
  outWritten := fun a h => absurd h (Nat.not_lt_zero a)

theorem witness_EncodeOfALiveChunkFits :
    (live [0x61#8] 1#32 0#32).Inv ∧ (live [0x61#8] 1#32 0#32).chValid = true
      ∧ ∃ t, exec .encode (live [0x61#8] 1#32 0#32) = .next t ∧ (t.err == 0#4) = true :=
  ⟨inv_live, rfl, ends_next (by decide +kernel)⟩

/-- n = 3 (P6), n = 11 with a length field that says 0, P9, and n = 12 = 12 + L (P7). -/
theorem witness_ParseTruncationCheckIsExact :
    (loaded [] 3#32).inLen.toNat < 4
      ∧ (4 ≤ (loaded iendFrame 11#32).inLen.toNat ∧ (loaded iendFrame 11#32).inLen.toNat ≤ Config.ibufSize
        ∧ (loaded iendFrame 11#32).ibuf.readN 0 4 = some [0#8, 0#8, 0#8, 0#8]
        ∧ (loaded iendFrame 11#32).inLen.toNat < 12 + (be32 [0#8, 0#8, 0#8, 0#8]).toNat)
      ∧ (4 ≤ iend.inLen.toNat ∧ iend.inLen.toNat ≤ Config.ibufSize ∧ iend.ibuf.readN 0 4 = some [0#8, 0#8, 0#8, 0#8]
        ∧ 12 + (be32 [0#8, 0#8, 0#8, 0#8]).toNat ≤ iend.inLen.toNat
        ∧ ∃ t, exec .parse iend = .next t ∧ (t.err == 0#4) = true) := by
  have h := Config.ibufSize_ge
  refine ⟨by decide, ⟨by decide, ?_, by decide +kernel, by decide +kernel⟩, by decide, ?_, by decide +kernel,
    by decide +kernel, ends_next (by decide +kernel)⟩
  · change 11 ≤ Config.ibufSize; omega
  · change 12 ≤ Config.ibufSize; omega

/-- P7's frame, whose CRCs agree, and the same with the CRC field's last byte changed (as S8 does). -/
theorem witness_ParseAcceptsIffTheCrcsAgree :
    iend.inLen.toNat ≤ Config.ibufSize ∧ iend.ibuf.readN 0 4 = some [0#8, 0#8, 0#8, 0#8]
      ∧ 12 + (be32 [0#8, 0#8, 0#8, 0#8]).toNat ≤ iend.inLen.toNat
      ∧ iend.ibuf.readN 4 4 = some [0x49#8, 0x45#8, 0x4E#8, 0x44#8] ∧ iend.ibuf.readN 8 0 = some []
      ∧ iend.ibuf.readN 8 4 = some [0xAE#8, 0x42#8, 0x60#8, 0x82#8]
      ∧ crc32 ([0x49#8, 0x45#8, 0x4E#8, 0x44#8] ++ []) = be32 [0xAE#8, 0x42#8, 0x60#8, 0x82#8]
      ∧ (iend.ibuf.write 11 0x81#8).readN 8 4 = some [0xAE#8, 0x42#8, 0x60#8, 0x81#8]
      ∧ crc32 ([0x49#8, 0x45#8, 0x4E#8, 0x44#8] ++ []) ≠ be32 [0xAE#8, 0x42#8, 0x60#8, 0x81#8] := by
  have h := Config.ibufSize_ge
  refine ⟨?_, by decide +kernel, by decide +kernel, by decide +kernel, by decide +kernel, by decide +kernel,
    by decide +kernel, by decide +kernel, by decide +kernel⟩
  change 12 ≤ Config.ibufSize; omega

/-- IN_LEN above IBUF_SIZE; an unwritten length field (P17); an unwritten last byte of a frame that is not truncated. -/
theorem witness_ParseCapacityFirstAndUnwrittenBytesFault :
    Config.ibufSize < (loaded [] 0xFFFFFFFF#32).inLen.toNat
      ∧ (4 ≤ (loaded [] 12#32).inLen.toNat ∧ (loaded [] 12#32).inLen.toNat ≤ Config.ibufSize
        ∧ ¬ (loaded [] 12#32).Written 0 4)
      ∧ ((loaded (iendFrame.take 11) 12#32).ibuf.readN 0 4 = some [0#8, 0#8, 0#8, 0#8]
        ∧ 12 + (be32 [0#8, 0#8, 0#8, 0#8]).toNat ≤ (loaded (iendFrame.take 11) 12#32).inLen.toNat
        ∧ ¬ (loaded (iendFrame.take 11) 12#32).Written 4 (8 + (be32 [0#8, 0#8, 0#8, 0#8]).toNat)) := by
  have h₁ := Config.ibufSize_ge
  have h₂ := Config.ibufSize_le
  refine ⟨?_, ⟨by decide, ?_, fun h => absurd (h 0 (by decide)) (by decide)⟩, by decide +kernel, by decide +kernel,
    fun h => absurd (h 7 (by decide +kernel)) (by decide +kernel)⟩
  · change Config.ibufSize < 4294967295; omega
  · change 12 ≤ Config.ibufSize; omega

/-- P7's frame, and the same IBUF with a further byte behind the frame. -/
theorem witness_ParseIgnoresTrailingBytes :
    iend.ibuf.readN 0 4 = some [0#8, 0#8, 0#8, 0#8] ∧ 12 + (be32 [0#8, 0#8, 0#8, 0#8]).toNat ≤ iend.inLen.toNat
      ∧ iend.inLen.toNat ≤ Config.ibufSize ∧ 12 ≤ (12#32 : Word).toNat ∧ (12#32 : Word).toNat ≤ Config.ibufSize
      ∧ (∀ a, a < 12 → (iend.ibuf.write 12 0x99#8).read a = iend.ibuf.read a)
      ∧ ∃ t, exec .parse iend = .next t ∧ (t.err == 0#4) = true := by
  have h := Config.ibufSize_ge
  refine ⟨by decide +kernel, by decide +kernel, ?_, by decide, ?_, fun a ha => ?_, ends_next (by decide +kernel)⟩
  · change 12 ≤ Config.ibufSize; omega
  · change 12 ≤ Config.ibufSize; omega
  · exact Memory.read_write_other _ _ (by omega)

/-- P7's frame accepted with no trailing byte, and a bit of each field flipped: length, type, CRC. -/
theorem witness_OneFlippedBitIsReported :
    (∃ t, exec .parse iend = .next t ∧ (t.err == 0#4 && iend.inLen.toNat == 12 + t.chLen.toNat) = true)
      ∧ ∀ p ∈ [(0, 7, 0x00#8), (3, 0, 0x00#8), (4, 5, 0x49#8), (11, 0, 0x82#8)],
        p.1 < iend.inLen.toNat ∧ p.2.1 < 8 ∧ iend.ibuf.read p.1 = some p.2.2
          ∧ (iend.ibuf.write p.1 (p.2.2 ^^^ (1#8 <<< p.2.1))).read p.1 = some (p.2.2 ^^^ (1#8 <<< p.2.1))
          ∧ ∀ c, c ≠ p.1 → (iend.ibuf.write p.1 (p.2.2 ^^^ (1#8 <<< p.2.1))).read c = iend.ibuf.read c := by
  refine ⟨ends_next (by decide +kernel), fun p hp => ⟨?_, ?_, ?_, Memory.read_write_same .., fun c hc =>
    Memory.read_write_other _ _ hc⟩⟩
  all_goals revert p; decide +kernel

/-- A frame with the one-byte payload "a" (its CRC from a CRC-32 library). -/
def oneByteFrame : State :=
  loaded
    [0x00#8, 0x00#8, 0x00#8, 0x01#8, 0x49#8, 0x45#8, 0x4E#8, 0x44#8,
     0x61#8, 0xEB#8, 0xAF#8, 0x1E#8, 0x2F#8] 13#32

/-- The case in which a flip makes the length shorter needs a block with room for a payload byte: then the frame is accepted,
and bit 0 of byte 3 is the one to flip. -/
theorem witness_OneFlippedBitIsReported_shorter (h : 13 ≤ Config.ibufSize) :
    (∃ t, exec .parse oneByteFrame = .next t ∧ (t.err == 0#4 && oneByteFrame.inLen.toNat == 12 + t.chLen.toNat) = true)
      ∧ 3 < oneByteFrame.inLen.toNat ∧ oneByteFrame.ibuf.read 3 = some 0x01#8
      ∧ (oneByteFrame.ibuf.write 3 (0x01#8 ^^^ (1#8 <<< 0))).readN 0 4 = some [0#8, 0#8, 0#8, 0#8] := by
  refine ⟨ends_next ?_, by decide, by decide +kernel, by decide +kernel⟩
  rw [exec, execParse, takeInLen_of_le (by exact h)]
  decide +kernel

/-- A command of the invariant's states that ends in success, and one that ends in an error of its own. -/
theorem witness_CommandsReportOnlyTheirOwnErrors :
    (live [0x61#8] 1#32 0#32).Inv ∧ (∃ t, exec .chCrc (live [0x61#8] 1#32 0#32) = .next t ∧ (t.err == 0#4) = true)
      ∧ ∃ t, exec .tcText (live [0x61#8] 1#32 0#32) = .next t ∧ (t.err == 1#4) = true :=
  ⟨inv_live, ends_next (by decide +kernel), ends_next (by decide +kernel)⟩

/-- Failing commands: NO_CHUNK, and PARSE's TRUNCATED before and after the length and its INTEGRITY. -/
theorem witness_FailingCommandWritesOnlyDiagnostics :
    (∃ t, exec .chCrc State.reset = .next t ∧ (t.err == 5#4) = true)
      ∧ ((∃ t, exec .parse (loaded [] 3#32) = .next t ∧ (t.err == 3#4) = true) ∧ (loaded [] 3#32).inLen.toNat < 4)
      ∧ (∃ t, exec .parse (loaded iendFrame 11#32) = .next t ∧ (t.err == 3#4) = true)
      ∧ ∃ t, exec .parse { iend with ibuf := iend.ibuf.write 11 0x81#8 } = .next t ∧ (t.err == 2#4) = true :=
  ⟨ends_next (by decide +kernel), ⟨ends_next (by decide +kernel), by decide⟩, ends_next (by decide +kernel),
    ends_next (by decide +kernel)⟩

theorem witness_EachRegisterHasItsWriters :
    (∃ t, exec .encode (live [] 0#32 0#32) = .next t ∧ (t.outLen == 12#32) = true)
      ∧ ∃ t, exec .tcRaw State.reset = .next t ∧ (t.err == 0#4) = true :=
  ⟨ends_next (by decide +kernel), ends_next (by decide)⟩

/-- Written inputs of PARSE, and unwritten ones. -/
theorem witness_CommandsCompleteOnWrittenInputs :
    InputsWritten .chCrc (live [0x61#8] 1#32 0#32) ∧ ¬ InputsWritten .chCrc (live [] 1#32 0#32) := by
  refine ⟨fun _ k hk => ?_, fun h => absurd (h rfl 0 (by decide)) (by decide)⟩
  obtain rfl : k = 0 := by change k < 1 at hk; omega
  decide +kernel

/-- A step that leaves a live chunk: CH_NEW. -/
theorem witness_ChangingIbufEndsTheLiveChunk :
    ∃ t, step (State.reset.withFetchWord 32 0x00000020) = .next t ∧ t.chValid = true :=
  ends_next (by decide +kernel)

/-- A state of the invariant with a live chunk, and a step from it: ENCODE. -/
theorem witness_EveryStepKeepsTheInvariant :
    (live [0x61#8] 1#32 0#32).Inv
      ∧ ∃ t, issue (asm .encode) (live [0x61#8] 1#32 0#32) = .next t ∧ (t.outLen == 13#32) = true :=
  ⟨inv_live, ends_next (by decide +kernel)⟩

/-- P7's state after PARSE: a live chunk at offset 8 whose frame is in IBUF. -/
theorem witness_ParsedFrame : parsed.ParsedFrame ∧ parsed.chValid = true ∧ parsed.chOff = 8#32
    ∧ ∃ t, issue (asm .chCrc) parsed = .next t ∧ (t.crcOut == 0xAE426082#32) = true :=
  ⟨fun _ _ => ⟨[], by decide +kernel, by decide +kernel, by decide +kernel, by decide +kernel, rfl, by decide +kernel⟩,
    rfl, rfl, ends_next (by decide +kernel)⟩

theorem witness_EncodeRewritesTheParsedFrame : ∃ t, exec .parse iend = .next t ∧ (t.err == 0#4) = true :=
  ends_next (by decide +kernel)

/-- The empty payload, and a full one: IBUF_SIZE - 12 bytes. -/
theorem witness_EncodeThenParseIsTheSameChunk :
    (State.reset.busy = false ∧ ([] : List Byte).length + 12 ≤ Config.ibufSize ∧ State.reset.inLen.toNat = 0
        ∧ State.reset.ibuf.readN 0 0 = some [])
      ∧ ∃ (s : State) (d : List Byte), s.busy = false ∧ d.length + 12 = Config.ibufSize ∧ s.inLen.toNat = d.length
        ∧ s.ibuf.readN 0 d.length = some d := by
  have h₁ := Config.ibufSize_ge
  have h₂ := Config.ibufSize_le
  refine ⟨⟨rfl, h₁, rfl, rfl⟩, loaded (List.replicate (Config.ibufSize - 12) 0x61#8)
    (BitVec.ofNat 32 (Config.ibufSize - 12)), List.replicate (Config.ibufSize - 12) 0x61#8, rfl, ?_, ?_, ?_⟩
  · rw [List.length_replicate]; omega
  · simp only [loaded, BitVec.toNat_ofNat, List.length_replicate]; omega
  · exact Memory.readN_writeN_same ..

end Sys2Proof.Tests
end

section
/-! Words and their four big-endian bytes (spec/00_scope.md R11, spec/10_state.md R27, spec/20_memory.md R52). The
numeric value of a step of `be32` gives the big-endian sum, and both inverses are read off that sum. -/

namespace Sys2Proof.Machine

/-- One step of `be32`: a byte goes in below a number whose top byte is still free. -/
theorem toNat_be32_snoc {s : List Byte} (hs : (be32 s).toNat < 2 ^ 24) (b : Byte) :
    (be32 (s ++ [b])).toNat = (be32 s).toNat * 2 ^ 8 + b.toNat := by
  have hshift : (be32 s <<< 8).toNat = (be32 s).toNat <<< 8 := by
    rw [BitVec.toNat_shiftLeft, Nat.shiftLeft_eq, Nat.mod_eq_of_lt (by omega)]
  have hzext : (zext32 b).toNat = b.toNat := BitVec.toNat_setWidth_of_le (by decide)
  calc (be32 (s ++ [b])).toNat
      = ((be32 s <<< 8) ||| zext32 b).toNat := by simp only [be32, List.foldl_append, List.foldl_cons, List.foldl_nil]
    _ = (be32 s).toNat <<< 8 ||| b.toNat := by rw [BitVec.toNat_or, hshift, hzext]
    _ = (be32 s).toNat * 2 ^ 8 + b.toNat := by rw [← Nat.shiftLeft_add_eq_or_of_lt b.isLt, Nat.shiftLeft_eq]

theorem toNat_be32 (a b c d : Byte) :
    (be32 [a, b, c, d]).toNat = a.toNat * 2 ^ 24 + b.toNat * 2 ^ 16 + c.toNat * 2 ^ 8 + d.toNat := by
  have h₀ : (be32 []).toNat = 0 := rfl
  have h₁ : (be32 [a]).toNat = (be32 []).toNat * 2 ^ 8 + a.toNat := toNat_be32_snoc (s := []) (by omega) a
  have h₂ : (be32 [a, b]).toNat = (be32 [a]).toNat * 2 ^ 8 + b.toNat := toNat_be32_snoc (s := [a]) (by omega) b
  have h₃ : (be32 [a, b, c]).toNat = (be32 [a, b]).toNat * 2 ^ 8 + c.toNat :=
    toNat_be32_snoc (s := [a, b]) (by omega) c
  have h₄ : (be32 [a, b, c, d]).toNat = (be32 [a, b, c]).toNat * 2 ^ 8 + d.toNat :=
    toNat_be32_snoc (s := [a, b, c]) (by omega) d
  rw [h₄, h₃, h₂, h₁, h₀]
  ring

@[simp] theorem be32_bytes32 (v : Word) : be32 (bytes32 v) = v := by
  refine BitVec.eq_of_toNat_eq ((toNat_be32 ..).trans ?_)
  simp only [BitVec.extractLsb'_toNat, Nat.shiftRight_eq_div_pow]
  omega

/-- A byte of a word by its value: the remainder mod 2^8 of the word divided by the byte's weight. -/
theorem extractLsb'_eq_of_toNat {v : Word} {k : Nat} {b : Byte} (h : v.toNat / 2 ^ k % 2 ^ 8 = b.toNat) :
    v.extractLsb' k 8 = b := by
  refine BitVec.eq_of_toNat_eq ?_
  rw [BitVec.extractLsb'_toNat, Nat.shiftRight_eq_div_pow, h]

@[simp] theorem bytes32_be32 (a b c d : Byte) : bytes32 (be32 [a, b, c, d]) = [a, b, c, d] := by
  have hsum := toNat_be32 a b c d
  have ha : (be32 [a, b, c, d]).extractLsb' 24 8 = a := extractLsb'_eq_of_toNat (by omega)
  have hb : (be32 [a, b, c, d]).extractLsb' 16 8 = b := extractLsb'_eq_of_toNat (by omega)
  have hc : (be32 [a, b, c, d]).extractLsb' 8 8 = c := extractLsb'_eq_of_toNat (by omega)
  have hd : (be32 [a, b, c, d]).extractLsb' 0 8 = d := extractLsb'_eq_of_toNat (by omega)
  rw [bytes32, ha, hb, hc, hd]

theorem bytes32_eq_typeBytes (v : Word) : bytes32 v = [typeByte v 0, typeByte v 1, typeByte v 2, typeByte v 3] :=
  rfl

/-- Settles O26: the big-endian sum determines the word from its bytes and the bytes from the word. -/
theorem wordsAndTheirBytesAgree : Obligations.WordsAndTheirBytesAgree :=
  ⟨fun v => ⟨be32_bytes32 v, bytes32_eq_typeBytes v⟩,
    fun a b c d => ⟨bytes32_be32 a b c d, toNat_be32 a b c d⟩⟩

end Sys2Proof.Machine
end

section
/-! What each command may write (spec/10_state.md R24 to R38), said once as one state, and the frame of every command
read off it. -/

namespace Sys2Proof.Machine

/-- `s` with what command `i` may write taken from `s'`, and the rest its own. -/
def State.takeWrites (s : State) (i : Instr) (s' : State) : State :=
  match i with
  | .nop => { s with err := s'.err }
  | .crcInit | .crcByte _ | .chCrc => { s with acc := s'.acc, err := s'.err }
  | .tcRaw | .tcText => { s with type := s'.type, err := s'.err }
  | .chNew =>
    { s with
      chLen := s'.chLen, chType := s'.chType, chOff := s'.chOff, chValid := s'.chValid, err := s'.err }
  | .parse =>
    { s with
      acc := s'.acc, decLen := s'.decLen, expCrc := s'.expCrc, crcMatch := s'.crcMatch
      chLen := s'.chLen, chType := s'.chType, chOff := s'.chOff, chValid := s'.chValid, err := s'.err }
  | .encode => { s with acc := s'.acc, obuf := s'.obuf, outLen := s'.outLen, err := s'.err }

variable {s s' : State} {i : Instr}

/-- PARSE writes its diagnostics, the chunk slot and ERR at most. -/
theorem execParse_eq_takeWrites (h : execParse s = .next s') : s' = s.takeWrites .parse s' := by
  rcases execParse_next h with ⟨-, rfl⟩ | ⟨-, rfl⟩ | ⟨-, -, l, -, ⟨-, rfl⟩ | ⟨-, hbody⟩⟩
  · rfl
  · rfl
  · rfl
  · obtain ⟨t, d, e, -, -, -, ⟨-, rfl⟩ | ⟨-, rfl⟩⟩ := parseBody_next hbody
    · rfl
    · rfl

/-- A command that ends has changed at most what it may write. -/
theorem exec_eq_takeWrites (h : exec i s = .next s') : s' = s.takeWrites i s' := by
  cases i with
  | nop => cases h; rfl
  | crcInit => cases h; rfl
  | crcByte b => cases h; rfl
  | tcRaw => cases h; rfl
  | tcText =>
    obtain ⟨-, rfl⟩ | ⟨-, -, rfl⟩ | ⟨-, t, -, -, rfl⟩ | ⟨-, t, -, -, rfl⟩ := execTcText_next h <;> rfl
  | chNew => obtain ⟨-, rfl⟩ | ⟨-, rfl⟩ := execChNew_next h <;> rfl
  | chCrc => obtain ⟨-, rfl⟩ | ⟨-, d, -, rfl⟩ := execChCrc_next h <;> rfl
  | parse => exact execParse_eq_takeWrites h
  | encode => obtain ⟨-, rfl⟩ | ⟨-, -, rfl⟩ | ⟨-, -, d, -, rfl⟩ := execEncode_next h <;> rfl

/-! ## The frame, register by register -/

theorem exec_keeps_hostSide (h : exec i s = .next s') :
    s'.cmd = s.cmd ∧ s'.arg0 = s.arg0 ∧ s'.inLen = s.inLen ∧ s'.busy = s.busy
      ∧ s'.pending = s.pending ∧ s'.reply = s.reply := by
  rw [exec_eq_takeWrites h]
  cases i <;> exact ⟨rfl, rfl, rfl, rfl, rfl, rfl⟩

theorem exec_keeps_ibuf (h : exec i s = .next s') : s'.ibuf = s.ibuf := by
  rw [exec_eq_takeWrites h]
  cases i <;> rfl

theorem exec_keeps_type (h : exec i s = .next s') (hraw : i ≠ .tcRaw) (htext : i ≠ .tcText) : s'.type = s.type := by
  rw [exec_eq_takeWrites h]
  cases i with
  | tcRaw => exact absurd rfl hraw
  | tcText => exact absurd rfl htext
  | _ => rfl

theorem exec_keeps_acc (h : exec i s = .next s') (hi : i ∈ [.nop, .tcRaw, .tcText, .chNew]) : s'.acc = s.acc := by
  rw [exec_eq_takeWrites h]
  cases i with
  | nop | tcRaw | tcText | chNew => rfl
  | _ => simp at hi

theorem exec_keeps_chunk (h : exec i s = .next s') (hnew : i ≠ .chNew) (hparse : i ≠ .parse) :
    s'.chLen = s.chLen ∧ s'.chType = s.chType ∧ s'.chOff = s.chOff ∧ s'.chValid = s.chValid := by
  rw [exec_eq_takeWrites h]
  cases i with
  | chNew => exact absurd rfl hnew
  | parse => exact absurd rfl hparse
  | _ => exact ⟨rfl, rfl, rfl, rfl⟩

theorem exec_keeps_diagnostics (h : exec i s = .next s') (hparse : i ≠ .parse) :
    s'.decLen = s.decLen ∧ s'.expCrc = s.expCrc ∧ s'.crcMatch = s.crcMatch := by
  rw [exec_eq_takeWrites h]
  cases i with
  | parse => exact absurd rfl hparse
  | _ => exact ⟨rfl, rfl, rfl⟩

theorem exec_keeps_output (h : exec i s = .next s') (hencode : i ≠ .encode) :
    s'.outLen = s.outLen ∧ s'.obuf = s.obuf := by
  rw [exec_eq_takeWrites h]
  cases i with
  | encode => exact absurd rfl hencode
  | _ => exact ⟨rfl, rfl⟩

theorem length_wireRecord (t : Word) (d : List Byte) : (wireRecord t d).length = d.length + 12 := by
  simp only [wireRecord, bytes32, List.length_append, List.length_cons, List.length_nil]
  omega

/-- ENCODE leaves the OBUF bytes past its record alone (R144). -/
theorem execEncode_keeps_obuf_above (h : execEncode s = .next s') {a : Nat} (ha : s.chLen.toNat + 12 ≤ a) :
    s'.obuf.read a = s.obuf.read a := by
  obtain ⟨-, rfl⟩ | ⟨-, -, rfl⟩ | ⟨-, -, d, hd, rfl⟩ := execEncode_next h
  · rfl
  · rfl
  · have hlen : d.length = s.chLen.toNat := Memory.readN_length hd
    rw [State.setErr_obuf, emitRecord_obuf s d hlen,
      Memory.read_writeN_outside _ _ (by rw [length_wireRecord]; omega)]

/-- Settles O42: each clause is a register's share of `exec_eq_takeWrites`. -/
theorem eachRegisterHasItsWriters : Obligations.EachRegisterHasItsWriters := by
  intro i s s' h
  refine ⟨exec_keeps_hostSide h, fun a => by rw [exec_keeps_ibuf h], exec_keeps_type h, exec_keeps_acc h,
    exec_keeps_chunk h, exec_keeps_diagnostics h, fun hi => ?_, ?_⟩
  · obtain ⟨hlen, hobuf⟩ := exec_keeps_output h hi
    exact ⟨hlen, fun a => by rw [hobuf]⟩
  · rintro rfl a ha
    exact execEncode_keeps_obuf_above h ha

end Sys2Proof.Machine
end

section
/-! Every way a step can answer a next state, as one relation, and the invariants of the reachable states read off it
(spec/10_state.md R41, spec/43_parse.md R164). -/

namespace Sys2Proof.Machine

/-- The next states of `s`, each by what the step did: nothing, a read or an ignored write, a write to ARG0, IN_LEN or
CMD, an IBUF write, a Reset. -/
inductive StepsTo (s : State) : State → Prop where
  | idle : StepsTo s s
  | reply (ts : List HostTxn) (r : Option Reply) : StepsTo s ((s.setPending ts).setReply r)
  | setArg0 (ts : List HostTxn) (v : Word) : StepsTo s (((s.setPending ts).setReply none).setArg0 v)
  | setInLen (ts : List HostTxn) (v : Word) : StepsTo s (((s.setPending ts).setReply none).setInLen v)
  | illegal (ts : List HostTxn) (v : Word) :
    StepsTo s (((startCommand v ((s.setPending ts).setReply none)).setErr .illegalCmd).setBusy false)
  | command {i : Instr} {t : State} (ts : List HostTxn) (v : Word)
    (run : exec i (startCommand v ((s.setPending ts).setReply none)) = .next t) : StepsTo s (t.setBusy false)
  | writeIbuf {j : Nat} (ts : List HostTxn) (b : Byte) (inRange : j < Config.ibufSize) :
    StepsTo s (((s.setPending ts).writeIbuf j b).setReply none)
  | reset (ts : List HostTxn) : StepsTo s (State.reset.setPending ts)

variable {s s' : State} {i : Instr}

theorem stepsTo_of_writeReg {ts : List HostTxn} {r : Reg} {v : Word}
    (h : writeReg r v ((s.setPending ts).setReply none) = .next s') : StepsTo s s' := by
  rcases writeReg_next h with ⟨-, hrun⟩ | ⟨-, rfl⟩ | ⟨-, rfl⟩ | ⟨-, -, -, rfl⟩
  · rcases runCommand_next hrun with ⟨e, -, rfl⟩ | ⟨i, t, -, hexec, rfl⟩
    · exact .illegal ts v
    · exact .command ts v hexec
  · exact .setArg0 ts v
  · exact .setInLen ts v
  · exact .reply ts none

theorem stepsTo_of_step (h : step s = .next s') : StepsTo s s' := by
  rcases step_next h with ⟨-, rfl⟩ | ⟨t, ts, -, ht⟩
  · exact .idle
  · rcases transact_next ht with ⟨r, -, rfl⟩ | ⟨r, v, -, -, hw⟩ | ⟨j, b, -, -, hj, rfl⟩
      | ⟨j, b, -, -, -, rfl⟩ | ⟨j, b, -, -, -, rfl⟩ | ⟨-, rfl⟩
    · exact .reply ts _
    · exact stepsTo_of_writeReg hw
    · exact .writeIbuf ts b hj
    · exact .reply ts _
    · exact .reply ts _
    · exact .reset _

/-- Settles O44: the steps that write IBUF, an IbufWrite and a Reset, end the live chunk. -/
theorem changingIbufEndsTheLiveChunk : Obligations.ChangingIbufEndsTheLiveChunk := by
  intro s s' h hvalid a
  cases stepsTo_of_step h with
  | command ts v run => exact congrArg (·.read a) (exec_keeps_ibuf run)
  | writeIbuf => cases hvalid
  | reset => cases hvalid
  | _ => rfl

/-! ## The invariant of good states -/

theorem ErrCode.code_mem_producedErrs {e : ErrCode} (h : e ≠ .encoding) : e.code ∈ producedErrs := by
  cases e with
  | encoding => exact absurd rfl h
  | _ => decide

/-- The invariant while a command runs: all of `State.Inv` but BUSY = 0. -/
abbrev State.Settled (s : State) : Prop := (s.setBusy false).Inv

theorem State.Settled.setErr (h : s.Settled) {e : ErrCode} (he : e ≠ .encoding) : (s.setErr e).Settled :=
  { h with errProduced := ErrCode.code_mem_producedErrs he }

theorem State.Settled.setType (h : s.Settled) (v : Word) : (s.setType v).Settled := { h with }

theorem State.Settled.setAcc (h : s.Settled) (v : Word) : (s.setAcc v).Settled := { h with }

theorem State.Settled.setDecLen (h : s.Settled) (v : Word) : (s.setDecLen v).Settled := { h with }

theorem State.Settled.setExpCrc (h : s.Settled) (v : Word) : (s.setExpCrc v).Settled := { h with }

theorem State.Settled.setCrcMatch (h : s.Settled) (b : Bool) : (s.setCrcMatch b).Settled := { h with }

theorem State.Inv.startCommand_settled (h : s.Inv) (ts : List HostTxn) (v : Word) :
    (startCommand v ((s.setPending ts).setReply none)).Settled := { h with idle := rfl }

/-- A new chunk fits when its window lies in IBUF at one of the two offsets (R41 a, b). -/
theorem State.Settled.setChunk (h : s.Settled) {len off : Word} (type : Word)
    (hfit : off.toNat + len.toNat ≤ Config.ibufSize) (hoff : off = 0#32 ∨ off = 8#32) :
    (s.setChunk len type off).Settled :=
  { h with chunkFits := fun _ => hfit, chunkOff := fun _ => hoff }

/-- ENCODE's record lies in OBUF and is written, as OUT_LEN says. -/
theorem State.Settled.emitRecord (h : s.Settled) {d : List Byte} (hlen : d.length = s.chLen.toNat)
    (hfit : s.chLen.toNat + 12 ≤ Config.obufSize) : (emitRecord s d).Settled := by
  have hobuf := emitRecord_obuf s d hlen
  have hrec : (wireRecord s.chType d).length = s.chLen.toNat + 12 := by rw [length_wireRecord, hlen]
  have hout : (Machine.emitRecord s d).outLen.toNat = s.chLen.toNat + 12 := by
    have := Config.obufSize_le
    rw [emitRecord_outLen, BitVec.toNat_ofNat, Nat.mod_eq_of_lt (by omega)]
  refine { h with
    obufWf := hobuf ▸ Memory.wf_writeN h.obufWf 0 _
    obufBelow := hobuf ▸ Memory.below_writeN h.obufBelow (by omega)
    outFits := hout.trans_le hfit
    outWritten := fun a ha => ?_ }
  rw [State.setBusy_outLen, hout] at ha
  rw [State.setBusy_obuf, hobuf, Memory.read_writeN, if_pos (by omega), List.getElem?_eq_getElem (by omega)]
  rfl

theorem execParse_keeps_settled (hs : s.Settled) (h : execParse s = .next s') : s'.Settled := by
  have h₀ : (s.setCrcMatch false).Settled := hs.setCrcMatch false
  rcases execParse_next h with ⟨-, rfl⟩ | ⟨-, rfl⟩ | ⟨-, hle, l, -, ⟨-, rfl⟩ | ⟨hfit, hbody⟩⟩
  · exact h₀.setErr (by decide)
  · exact h₀.setErr (by decide)
  · exact (h₀.setDecLen _).setErr (by decide)
  · obtain ⟨t, d, e, -, -, -, hend⟩ := parseBody_next hbody
    have hdiag := ((h₀.setDecLen (be32 l)).setAcc (crcFold crcInitial (t ++ d))).setExpCrc (be32 e)
    rcases hend with ⟨-, rfl⟩ | ⟨-, rfl⟩
    · exact hdiag.setErr (by decide)
    · have hwindow : (8#32).toNat + (be32 l).toNat ≤ Config.ibufSize := by
        rw [BitVec.toNat_ofNat]; omega
      exact ((hdiag.setCrcMatch true).setChunk _ hwindow (.inr rfl)).setErr (by decide)

theorem exec_keeps_settled (hs : s.Settled) (h : exec i s = .next s') : s'.Settled := by
  have hnone : ErrCode.none ≠ .encoding := by decide
  cases i with
  | nop => cases h; exact hs.setErr hnone
  | crcInit => cases h; exact (hs.setAcc _).setErr hnone
  | crcByte b => cases h; exact (hs.setAcc _).setErr hnone
  | tcRaw => cases h; exact (hs.setType _).setErr hnone
  | tcText =>
    rcases execTcText_next h with ⟨-, rfl⟩ | ⟨-, -, rfl⟩ | ⟨-, t, -, -, rfl⟩ | ⟨-, t, -, -, rfl⟩
    · exact hs.setErr (by decide)
    · exact hs.setErr (by decide)
    · exact hs.setErr (by decide)
    · exact (hs.setType _).setErr hnone
  | chNew =>
    rcases execChNew_next h with ⟨-, rfl⟩ | ⟨hle, rfl⟩
    · exact hs.setErr (by decide)
    · exact (hs.setChunk _ (by simpa using hle) (.inl rfl)).setErr hnone
  | chCrc =>
    rcases execChCrc_next h with ⟨-, rfl⟩ | ⟨-, d, -, rfl⟩
    · exact hs.setErr (by decide)
    · exact (hs.setAcc _).setErr hnone
  | parse => exact execParse_keeps_settled hs h
  | encode =>
    rcases execEncode_next h with ⟨-, rfl⟩ | ⟨-, -, rfl⟩ | ⟨-, hfit, d, hd, rfl⟩
    · exact hs.setErr (by decide)
    · exact hs.setErr (by decide)
    · exact (hs.emitRecord (Memory.readN_length hd) hfit).setErr hnone

/-- An IBUF write in range keeps the invariant: no chunk is live after it. -/
theorem State.Inv.writeIbuf (h : s.Inv) {j : Nat} (hj : j < Config.ibufSize) (b : Byte) : (s.writeIbuf j b).Inv :=
  { h with
    ibufWf := Memory.wf_write h.ibufWf j b
    ibufBelow := Memory.below_write h.ibufBelow hj b
    chunkFits := nofun
    chunkOff := nofun }

theorem inv_reset : State.reset.Inv where
  ibufWf := .nil
  ibufBelow := nofun
  obufWf := .nil
  obufBelow := nofun
  idle := rfl
  errProduced := by decide
  chunkFits := nofun
  chunkOff := nofun
  outFits := Nat.zero_le _
  outWritten := fun a ha => absurd ha (Nat.not_lt_zero a)

/-- Settles O47: a command keeps all of the invariant but BUSY = 0, which the step restores when the command ends. -/
theorem everyStepKeepsTheInvariant : Obligations.EveryStepKeepsTheInvariant := by
  intro s s' hs h
  cases stepsTo_of_step h with
  | idle => exact hs
  | reply => exact { hs with }
  | setArg0 => exact { hs with }
  | setInLen => exact { hs with }
  | illegal ts v => exact (hs.startCommand_settled ts v).setErr (by decide)
  | command ts v run => exact exec_keeps_settled (hs.startCommand_settled ts v) run
  | writeIbuf ts b hj =>
    have hw := hs.writeIbuf hj b
    exact { hw with }
  | reset ts => exact { inv_reset with }

/-! ## The parsed frame -/

theorem bytes32_be32_of_readN {m : Memory} {a : Nat} {l : List Byte} (h : m.readN a 4 = some l) :
    bytes32 (be32 l) = l := by
  obtain ⟨b₀, b₁, b₂, b₃, rfl⟩ := List.length_eq_four.1 (Memory.readN_length h)
  exact bytes32_be32 b₀ b₁ b₂ b₃

/-- An accepted frame is the frame of the chunk PARSE builds (R164). -/
theorem parsedFrame_of_accepted {l t d e : List Byte} (hl : s.ibuf.readN 0 4 = some l)
    (ht : s.ibuf.readN 4 4 = some t) (hd : s.ibuf.readN 8 (be32 l).toNat = some d)
    (he : s.ibuf.readN (8 + (be32 l).toNat) 4 = some e) (hcrc : crc32 (t ++ d) = be32 e) :
    ((((parseDiag ((s.setCrcMatch false).setDecLen (be32 l)) t d e).setCrcMatch true).setChunk
      (be32 l) (be32 t) 8#32).setErr .none).ParsedFrame := by
  have hl' := bytes32_be32_of_readN hl
  have ht' := bytes32_be32_of_readN ht
  have he' := bytes32_be32_of_readN he
  intro _ _
  refine ⟨d, ?_, ?_, hd, ?_, rfl, ?_⟩
  · simpa [parseDiag, hl'] using hl
  · simpa [parseDiag, ht'] using ht
  · simpa [parseDiag, ht', hcrc, he'] using he
  · simp [parseDiag, ht', hcrc]

/-- While a parsed chunk is live, PARSE decodes its length again, and finds its CRC matching. -/
theorem execParse_keeps_parsedFrame (hs : s.ParsedFrame) (h : execParse s = .next s') : s'.ParsedFrame := by
  rcases execParse_next h with ⟨-, rfl⟩ | ⟨-, rfl⟩ | ⟨-, -, l, hl, ⟨-, rfl⟩ | ⟨-, hbody⟩⟩
  · exact hs
  · exact hs
  · intro hvalid hoff
    obtain ⟨d, hlen, htype, hdata, hcrc, -, hexp⟩ := hs hvalid hoff
    have hl' : be32 l = s.chLen := by rw [Option.some.inj (hl.symm.trans hlen), be32_bytes32]
    exact ⟨d, hlen, htype, hdata, hcrc, hl', hexp⟩
  · obtain ⟨t, d, e, ht, hd, he, ⟨hne, rfl⟩ | ⟨heq, rfl⟩⟩ := parseBody_next hbody
    · intro hvalid hoff
      obtain ⟨d', hlen, htype, hdata, hcrc, -, -⟩ := hs hvalid hoff
      have hl' : be32 l = s.chLen := by rw [Option.some.inj (hl.symm.trans hlen), be32_bytes32]
      have ht' : t = bytes32 s.chType := Option.some.inj (ht.symm.trans htype)
      rw [hl'] at hd he
      have hd' : d = d' := Option.some.inj (hd.symm.trans hdata)
      have he' : e = bytes32 (crc32 (bytes32 s.chType ++ d')) := Option.some.inj (he.symm.trans hcrc)
      exact absurd (by rw [ht', hd', he', be32_bytes32]) hne
    · exact parsedFrame_of_accepted hl ht hd he heq

theorem exec_keeps_parsedFrame (hs : s.ParsedFrame) (h : exec i s = .next s') : s'.ParsedFrame := by
  by_cases hparse : i = .parse
  · subst hparse; exact execParse_keeps_parsedFrame hs h
  by_cases hnew : i = .chNew
  · subst hnew
    rcases execChNew_next h with ⟨-, rfl⟩ | ⟨-, rfl⟩
    · exact hs
    · intro _ hoff
      cases (show 0#32 = 8#32 from hoff)
  obtain ⟨hlen, htype, hoff, hvalid⟩ := exec_keeps_chunk h hnew hparse
  obtain ⟨hdec, hexp, -⟩ := exec_keeps_diagnostics h hparse
  unfold State.ParsedFrame
  rw [hlen, htype, hoff, hvalid, hdec, hexp, exec_keeps_ibuf h]
  exact hs

theorem parsedFrame_reset : State.reset.ParsedFrame := nofun

/-- Settles O48: only PARSE writes what the frame speaks of while a parsed chunk stays live. -/
theorem everyStepKeepsTheParsedFrame : Obligations.EveryStepKeepsTheParsedFrame := by
  intro s s' hs h
  cases stepsTo_of_step h with
  | @command i t ts v run =>
    have hstart : (startCommand v ((s.setPending ts).setReply none)).ParsedFrame := hs
    have hend : t.ParsedFrame := exec_keeps_parsedFrame hstart run
    exact hend
  | writeIbuf => nofun
  | reset => exact parsedFrame_reset
  | _ => exact hs

/-- Settles O46: at reset no chunk is live, no byte is written and OUT_LEN is 0. -/
theorem resetStateIsGood : Obligations.ResetStateIsGood :=
  ⟨inv_reset, parsedFrame_reset⟩

end Sys2Proof.Machine
end

section
/-! The decoder reads back what the encoder wrote, and a CMD write runs that command (spec/10_state.md R24,
spec/30_encoding.md R70, R73). -/

namespace Sys2Proof

/-- The bits of a field that lies at bit `n` of a word, the other bits 0. -/
theorem getLsbD_field {w n : Nat} (x : BitVec w) (h : w + n ≤ 32) (k : Nat) :
    (x.setWidth 32 <<< n).getLsbD k = (decide (n ≤ k) && x.getLsbD (k - n)) := by
  rw [BitVec.getLsbD_shiftLeft, BitVec.getLsbD_setWidth]
  by_cases hk : k < n + w
  · rw [decide_eq_true (show k < 32 by omega), decide_eq_true (show k - n < 32 by omega),
      Bool.true_and, Bool.true_and, ← decide_not]
    simp only [Nat.not_lt]
  · rw [BitVec.getLsbD_of_ge x (k - n) (by omega)]
    simp

/-- The three fields of a command word lie side by side. -/
theorem cmdFields_cmdWord (c : Cmd32) : cmdFields (cmdWord c) = c := by
  obtain ⟨rsv, imm8, op⟩ := c
  have hbit (k : Nat) : (cmdWord ⟨rsv, imm8, op⟩).getLsbD k
      = (decide (16 ≤ k) && rsv.getLsbD (k - 16) || decide (8 ≤ k) && imm8.getLsbD (k - 8) || op.getLsbD k) := by
    have hop : (op.setWidth 32).getLsbD k = op.getLsbD k := by simpa using getLsbD_field (n := 0) op (by omega) k
    rw [cmdWord, BitVec.getLsbD_or, BitVec.getLsbD_or, getLsbD_field rsv (by omega),
      getLsbD_field imm8 (by omega), hop]
  rw [cmdFields, Cmd32.mk.injEq]
  refine ⟨BitVec.eq_of_getLsbD_eq fun k hk => ?_, BitVec.eq_of_getLsbD_eq fun k hk => ?_,
    BitVec.eq_of_getLsbD_eq fun k hk => ?_⟩
  · rw [BitVec.getLsbD_extractLsb', hbit, BitVec.getLsbD_of_ge imm8 _ (by omega), BitVec.getLsbD_of_ge op _ (by omega)]
    simp [hk]
  · rw [BitVec.getLsbD_extractLsb', hbit, BitVec.getLsbD_of_ge op _ (by omega)]
    simp [hk, show ¬ 16 ≤ 8 + k by omega]
  · rw [BitVec.getLsbD_extractLsb', hbit]
    simp [hk, show ¬ 16 ≤ k by omega, show ¬ 8 ≤ k by omega]

theorem decode_encode (i : Instr) : decode (encode i) = .ok i := by
  unfold decode
  rw [encode, cmdFields_cmdWord]
  cases i <;> rfl

end Sys2Proof

namespace Sys2Proof.Machine

variable {s s' : State}

theorem runCommand_of_decode {v : Word} {i : Instr} (h : decode v = .ok i) (s : State) :
    runCommand v s = endCommand (exec i (startCommand v s)) := by
  rw [runCommand, h]

theorem step_of_cmdWrite {ts : List HostTxn} {v : Word} {i : Instr} (hidle : s.busy = false)
    (hpending : s.pending = .regWrite 0x00 4 v :: ts) (hdecode : decode v = .ok i) :
    step s = endCommand (exec i { s with cmd := v, busy := true, pending := ts, reply := none }) := by
  rw [step, busStep, hpending]
  exact (transact_cmdWrite (s := s.setPending ts) hidle v).trans (runCommand_of_decode hdecode _)

/-- Settles O5: the next pending transaction is the CMD write, and `withFetchWord` puts one there. -/
theorem stepRunsTheDecodedCommand : Obligations.StepRunsTheDecodedCommand := by
  refine ⟨fun s ts v i hidle hpending hdecode => ?_, fun s i => ?_⟩
  · rw [step_of_cmdWrite hidle hpending hdecode]
    cases exec i _ <;> rfl
  · have hword : BitVec.ofNat 32 ((encode i).toNat % 2 ^ 32) = encode i := by
      rw [Nat.mod_eq_of_lt (encode i).isLt, BitVec.ofNat_toNat, BitVec.setWidth_eq]
    have hpending : (s.withFetchWord 32 (encode i).toNat).pending = .regWrite 0x00 4 (encode i) :: s.pending := by
      rw [State.withFetchWord, hword, State.setPending_pending]
    rw [step_of_cmdWrite rfl hpending (decode_encode i)]
    change endCommand (exec i { s with cmd := encode i, busy := true, reply := none }) = _
    cases exec i _ <;> rfl

end Sys2Proof.Machine
end

section
/-! Register accesses (spec/10_state.md R23, R24, R39, R40) and the busy handshake
(spec/70_reset_and_hazards.md R225). -/

namespace Sys2Proof.Machine

variable {s s' : State}

theorem issue_regRead (h : s.busy = false) (r : Reg) :
    issue (.regRead r.offset 4) s = .next { s with reply := some (.word (s.readReg r)) } := by
  rw [issue_eq_transact, transact_of_idle h]
  exact withReg_offset r _

theorem issue_regWrite (h : s.busy = false) (r : Reg) (v : Word) :
    issue (.regWrite r.offset 4 v) s = writeReg r v (s.setReply none) := by
  rw [issue_eq_transact, transact_of_idle h]
  exact withReg_offset r _

/-- The faults of a register access that is not a whole word at a mapped offset (R39). -/
def RegAccessFaults (access : Nat → Nat → Host.Outcome State Fault Refusal) : Prop :=
  ∀ o bytes : Nat,
    (bytes = 4 → o % 4 = 0 → 0x2C < o → access o bytes = .fault (.hostProtocol .unmappedRegister))
    ∧ (bytes ≠ 4 → o % 4 = 0 → o ≤ 0x2C → access o bytes = .fault (.hostProtocol .subwordAccess))
    ∧ ((bytes ≠ 4 ∧ 0x2C < o) ∨ o % 4 ≠ 0 →
      access o bytes = .fault (.hostProtocol .subwordAccess)
        ∨ access o bytes = .fault (.hostProtocol .unmappedRegister))

theorem withReg_of_not_word {o bytes : Nat} (h : ¬ (bytes = 4 ∧ o % 4 = 0))
    (k : Reg → Host.Outcome State Fault Refusal) :
    withReg o bytes k = .fault (.hostProtocol .subwordAccess) := if_neg h

theorem withReg_of_unmapped {o : Nat} (haligned : o % 4 = 0) (hpast : 0x2C < o)
    (k : Reg → Host.Outcome State Fault Refusal) :
    withReg o 4 k = .fault (.hostProtocol .unmappedRegister) := by
  rw [withReg, if_pos ⟨rfl, haligned⟩, regAt_of_gt hpast]

theorem regAccessFaults_withReg (k : Reg → Host.Outcome State Fault Refusal) :
    RegAccessFaults fun o bytes => withReg o bytes k := by
  refine fun o bytes => ⟨?_, fun hsize _ _ => ?_, fun h => .inl ?_⟩
  · rintro rfl haligned hpast
    exact withReg_of_unmapped haligned hpast k
  · exact withReg_of_not_word (fun hword => hsize hword.1) k
  · exact withReg_of_not_word (by omega) k

/-- Settles O11: each mapped offset is a register's, and the rest is `regAccessFaults_withReg`. -/
theorem registerReadReturnsTheRegister : Obligations.RegisterReadReturnsTheRegister := by
  intro s hidle
  have hread := issue_regRead hidle
  refine ⟨?_, ?_⟩
  · simp only [List.forall_mem_cons]
    exact ⟨hread .cmd, hread .arg0, hread .status, hread .inLen, hread .type, hread .crcOut, hread .chLen,
      hread .chType, hread .chOff, hread .decLen, hread .expCrc, hread .outLen, nofun⟩
  · simp only [issue_eq_transact, transact_of_idle hidle]
    exact regAccessFaults_withReg _

/-- Settles O12: each offset is a register's, and the faults are those of a read. -/
theorem registerWriteSetsOnlyArg0OrInLen : Obligations.RegisterWriteSetsOnlyArg0OrInLen := by
  intro s v hidle
  have hwrite (r : Reg) := issue_regWrite hidle r v
  refine ⟨hwrite .arg0, hwrite .inLen, ?_, ?_⟩
  · simp only [List.forall_mem_cons]
    exact ⟨hwrite .status, hwrite .type, hwrite .crcOut, hwrite .chLen, hwrite .chType, hwrite .chOff,
      hwrite .decLen, hwrite .expCrc, hwrite .outLen, nofun⟩
  · simp only [issue_eq_transact, transact_of_idle hidle]
    exact regAccessFaults_withReg _

/-- A command keeps the CMD its write stored, and BUSY is 0 when it has ended. -/
theorem runCommand_cmd_busy {v : Word} (h : runCommand v s = .next s') : s'.cmd = v ∧ s'.busy = false := by
  rcases runCommand_next h with ⟨e, -, rfl⟩ | ⟨i, t, -, hexec, rfl⟩
  · exact ⟨rfl, rfl⟩
  · obtain ⟨hcmd, -⟩ := exec_keeps_hostSide hexec
    exact ⟨hcmd, rfl⟩

/-- Settles O6: no command writes CMD, so the word of the write is still there when BUSY is back at 0. -/
theorem cmdHoldsTheLastWordWritten : Obligations.CmdHoldsTheLastWordWritten := by
  refine ⟨fun s s' v hidle h => ?_, issue_regRead rfl .cmd⟩
  obtain ⟨hcmd, hbusy⟩ := runCommand_cmd_busy ((issue_regWrite hidle .cmd v).symm.trans h)
  subst hcmd
  exact ⟨rfl, hbusy, issue_regRead hbusy .cmd⟩

/-! ## STATUS -/

theorem getLsbD_bitAt {j : Nat} (hj : j < 32) (b : Bool) (k : Nat) :
    (bitAt j b).getLsbD k = (decide (k = j) && b) := by
  rw [bitAt, getLsbD_field _ (by omega), BitVec.getLsbD_ofBool, ← Bool.and_assoc, ← Bool.decide_and]
  congr 2
  exact propext ⟨by omega, by omega⟩

/-- STATUS as the union of its fields, each at its own bits (R23). -/
theorem getLsbD_status (s : State) (k : Nat) : s.status.getLsbD k =
      (decide (k = 0) && s.busy || decide (k = 1) && s.chValid || decide (k = 2) && s.crcMatch
        || decide (k = 4) && critical s.type || decide (k = 5) && reservedBitValid s.type
        || decide (k = 6) && typeValid s.type
        || decide (k = 8) && critical s.chType || decide (k = 9) && reservedBitValid s.chType
        || decide (k = 10) && typeValid s.chType
        || decide (16 ≤ k) && s.err.getLsbD (k - 16)) := by
  have herr := getLsbD_field s.err (n := 16) (by decide) k
  simp only [State.status, BitVec.getLsbD_or, getLsbD_bitAt, herr, Nat.reduceLT]

/-- Settles O13: below bit 16 the bit names its field, and ERR's four bits are all that is above. -/
theorem statusBitsAreTheTable : Obligations.StatusBitsAreTheTable := by
  refine fun s hidle => ⟨issue_regRead hidle .status, fun k => ?_⟩
  rw [getLsbD_status]
  by_cases hk : k < 16
  · interval_cases k <;> simp [critical, typeValid, reservedBitValid]
  · have hne {j : Nat} (hj : j < 16) : ¬ k = j := by omega
    by_cases herr : k ≤ 19
    · simp [hne, herr, show 16 ≤ k by omega]
    · simp [hne, herr, BitVec.getLsbD_of_ge s.err (k - 16) (by omega)]

/-! ## The busy handshake -/

theorem allowedWhileBusy_eq_false {t : HostTxn} (hreset : t ≠ .reset) (hstatus : t ≠ .regRead 0x08 4) :
    t.allowedWhileBusy = false := by
  cases t with
  | reset => exact absurd rfl hreset
  | regRead o bytes =>
    refine Bool.eq_false_iff.2 fun h => hstatus ?_
    obtain ⟨ho, hb⟩ : o = 0x08 ∧ bytes = 4 := by simpa [HostTxn.allowedWhileBusy] using h
    rw [ho, hb]
  | _ => rfl

/-- The outcome is no BusyAccess fault. -/
def NotBusyAccess (o : Host.Outcome State Fault Refusal) : Prop := o ≠ .fault (.hostProtocol .busyAccess)

theorem withReg_notBusyAccess {o bytes : Nat} {k : Reg → Host.Outcome State Fault Refusal}
    (h : ∀ r, NotBusyAccess (k r)) : NotBusyAccess (withReg o bytes k) := by
  unfold withReg
  split
  · split
    · exact h _
    · nofun
  · nofun

theorem hostReadByte_notBusyAccess (m : Memory) (j : Nat) (s : State) : NotBusyAccess (hostReadByte m j s) := by
  unfold hostReadByte
  split <;> nofun

/-- A command's one fault is the unwritten byte's. -/
theorem runCommand_notBusyAccess (v : Word) (s : State) : NotBusyAccess (runCommand v s) := by
  unfold runCommand
  split
  · rename_i i _
    rcases exec_ends i (startCommand v s) with ⟨t, ht⟩ | ht <;> rw [ht] <;> nofun
  · nofun

theorem writeReg_notBusyAccess (r : Reg) (v : Word) (s : State) : NotBusyAccess (writeReg r v s) := by
  cases r with
  | cmd => exact runCommand_notBusyAccess v s
  | _ => nofun

theorem transact_notBusyAccess (h : s.busy = false) (t : HostTxn) : NotBusyAccess (transact t s) := by
  rw [transact_of_idle h]
  cases t with
  | regRead o bytes => exact withReg_notBusyAccess fun r => nofun
  | regWrite o bytes v => exact withReg_notBusyAccess fun r => writeReg_notBusyAccess r v _
  | ibufWrite j b => dsimp only [hostIbufWrite]; split <;> nofun
  | ibufRead j => dsimp only [hostIbufRead]; split; nofun; exact hostReadByte_notBusyAccess _ _ _
  | obufRead j => dsimp only [hostObufRead]; split; nofun; exact hostReadByte_notBusyAccess _ _ _
  | reset => nofun

/-- Settles O17: a good state is idle, and an idle block has no BusyAccess. -/
theorem busyAccessFaultsAndIsUnreachable : Obligations.BusyAccessFaultsAndIsUnreachable := by
  refine ⟨fun s t hbusy hreset hstatus => ?_, fun s => ?_, fun s hs => ?_⟩
  · rw [issue_eq_transact]
    unfold transact
    rw [hbusy, allowedWhileBusy_eq_false hreset hstatus]
    rfl
  · rw [issue_eq_transact]
    unfold transact
    rw [if_neg (by simp [HostTxn.allowedWhileBusy])]
    exact withReg_offset .status _
  · rw [step, busStep]
    split
    · nofun
    · rename_i t ts _
      exact transact_notBusyAccess (s := s.setPending ts) hs.idle t

end Sys2Proof.Machine
end

section
/-! The decoder stands for the encoder's words alone (spec/30_encoding.md R70, R71, R73). -/

namespace Sys2Proof

/-- The three fields make up the whole word. -/
theorem cmdWord_cmdFields (v : Word) : cmdWord (cmdFields v) = v := by
  refine BitVec.eq_of_getLsbD_eq fun k hk => ?_
  rw [cmdWord, BitVec.getLsbD_or, BitVec.getLsbD_or, getLsbD_field _ (by omega), getLsbD_field _ (by omega)]
  simp only [cmdFields, BitVec.getLsbD_setWidth, BitVec.getLsbD_extractLsb']
  obtain h | ⟨h₁, h₂⟩ | h : k < 8 ∨ (8 ≤ k ∧ k < 16) ∨ 16 ≤ k := by omega
  · simp [h, hk, show ¬ 8 ≤ k by omega, show ¬ 16 ≤ k by omega]
  · simp [h₁, show ¬ k < 8 by omega, show ¬ 16 ≤ k by omega, show k - 8 < 8 by omega]
  · simp [h, show ¬ k < 8 by omega, show ¬ k - 8 < 8 by omega, show k - 16 < 16 by omega]

theorem fields_of_plainCommand {op : Byte} {i : Instr} (h : plainCommand op = some i) :
    i.fields = ⟨0#16, 0#8, op⟩ := by
  unfold plainCommand at h
  repeat' split at h
  all_goals cases h
  all_goals subst op; rfl

/-- A word that decodes to a command has that command's fields. -/
theorem fields_of_decode {v : Word} {i : Instr} (h : decode v = .ok i) : i.fields = cmdFields v := by
  unfold decode at h
  generalize cmdFields v = c at h ⊢
  obtain ⟨rsv, imm8, op⟩ := c
  dsimp only at h
  split at h
  · cases h
  · rename_i hrsv
    obtain rfl : rsv = 0#16 := not_not.1 hrsv
    split at h
    · rename_i hop; cases h; subst op; rfl
    · split at h
      · cases h
      · rename_i j hj
        split at h
        · cases h
        · rename_i himm
          obtain rfl : imm8 = 0#8 := not_not.1 himm
          cases h
          exact fields_of_plainCommand hj

theorem encode_of_decode {v : Word} {i : Instr} (h : decode v = .ok i) : encode i = v := by
  rw [encode, fields_of_decode h, cmdWord_cmdFields]

end Sys2Proof
end

section
/-! The host's accesses to the buffers (spec/20_memory.md R55 to R58): what a read answers, what an IBUF write changes, and
how long an OBUF byte keeps its value. -/

namespace Sys2Proof.Machine

variable {s s' : State}

/-- What a host read at `i` of a buffer of `size` bytes answers: the byte, or one of two faults (R56 to R58). -/
def ReadAnswers (m : Memory) (size i : Nat) (why : HostViolation) (s : State)
    (o : Host.Outcome State Fault Refusal) : Prop :=
  (size ≤ i → o = .fault (.hostProtocol why))
    ∧ (i < size → m.read i = none → o = .fault .uninitialisedRead)
    ∧ ∀ b, i < size → m.read i = some b → o = .next { s with reply := some (.byte b) }

theorem hostReadByte_of_none {m : Memory} {i : Nat} (h : m.read i = none) :
    hostReadByte m i s = .fault .uninitialisedRead := by
  rw [hostReadByte, h]

theorem hostReadByte_of_some {m : Memory} {i : Nat} {b : Byte} (h : m.read i = some b) :
    hostReadByte m i s = .next (s.setReply (some (.byte b))) := by
  rw [hostReadByte, h]

/-- The range check before a host read of one byte gives the three answers. -/
theorem readAnswers_of_rangeCheck (m : Memory) (size i : Nat) (why : HostViolation) (s : State) :
    ReadAnswers m size i why s (if size ≤ i then .fault (.hostProtocol why) else hostReadByte m i s) :=
  ⟨fun h => if_pos h,
    fun h hread => (if_neg (Nat.not_le.2 h)).trans (hostReadByte_of_none hread),
    fun _ h hread => (if_neg (Nat.not_le.2 h)).trans (hostReadByte_of_some hread)⟩

theorem issue_ibufRead_answers (h : s.busy = false) (i : Nat) :
    ReadAnswers s.ibuf Config.ibufSize i .ibufOutOfRange s (issue (.ibufRead i) s) := by
  rw [issue_eq_transact, transact_of_idle h]
  exact readAnswers_of_rangeCheck ..

theorem issue_obufRead_answers (h : s.busy = false) (i : Nat) :
    ReadAnswers s.obuf Config.obufSize i .obufOutOfRange s (issue (.obufRead i) s) := by
  rw [issue_eq_transact, transact_of_idle h]
  exact readAnswers_of_rangeCheck ..

/-- Settles O15: an IBUF read is a host read of IBUF. -/
theorem ibufReadReturnsTheByte : Obligations.IbufReadReturnsTheByte :=
  fun _ i hidle => issue_ibufRead_answers hidle i

/-- Settles O14: the new IBUF is the old one after one write, whose reads are `Memory.read_write`'s. -/
theorem ibufWriteWritesOneByteAndEndsTheChunk : Obligations.IbufWriteWritesOneByteAndEndsTheChunk := by
  intro s i b hidle
  rw [issue_eq_transact, transact_of_idle hidle]
  exact ⟨fun h => if_pos h, fun h => ⟨s.ibuf.write i b, if_neg (Nat.not_le.2 h), s.ibuf.read_write_same i b,
    fun _ hj => s.ibuf.read_write_other b hj⟩⟩

/-! ## The life of an OBUF byte -/

theorem exec_keeps_obuf_byte {i : Instr} (h : exec i s = .next s') {a : Nat}
    (ha : i ≠ .encode ∨ s.chLen.toNat + 12 ≤ a) : s'.obuf.read a = s.obuf.read a := by
  by_cases hi : i = .encode
  · subst hi
    exact execEncode_keeps_obuf_above h (ha.resolve_left (absurd rfl))
  · rw [(exec_keeps_output h hi).2]

/-- A CMD write of any word but ENCODE's keeps OBUF: no other word decodes to ENCODE. -/
theorem runCommand_keeps_obuf_byte {v : Word} (h : runCommand v s = .next s') {a : Nat}
    (ha : v ≠ encode .encode ∨ s.chLen.toNat + 12 ≤ a) : s'.obuf.read a = s.obuf.read a := by
  rcases runCommand_next h with ⟨e, -, rfl⟩ | ⟨i, t, hdecode, hexec, rfl⟩
  · rfl
  · refine exec_keeps_obuf_byte (s := startCommand v s) hexec (ha.imp_left fun hv hi => hv ?_)
    rw [← encode_of_decode hdecode, hi]

theorem writeReg_keeps_obuf_byte {r : Reg} {v : Word} (h : writeReg r v s = .next s') {a : Nat}
    (ha : HostTxn.regWrite r.offset 4 v ≠ asm .encode ∨ s.chLen.toNat + 12 ≤ a) :
    s'.obuf.read a = s.obuf.read a := by
  rcases writeReg_next h with ⟨rfl, hrun⟩ | ⟨-, rfl⟩ | ⟨-, rfl⟩ | ⟨-, -, -, rfl⟩
  · exact runCommand_keeps_obuf_byte hrun (ha.imp_left fun ht hv => ht (by rw [hv]; rfl))
  · rfl
  · rfl
  · rfl

theorem transact_keeps_obuf_byte {t : HostTxn} (h : transact t s = .next s') {a : Nat} (hreset : t ≠ .reset)
    (ha : t ≠ asm .encode ∨ s.chLen.toNat + 12 ≤ a) : s'.obuf.read a = s.obuf.read a := by
  rcases transact_next h with ⟨r, -, rfl⟩ | ⟨r, v, rfl, -, hwrite⟩ | ⟨i, b, -, -, -, rfl⟩ | ⟨i, b, -, -, -, rfl⟩
    | ⟨i, b, -, -, -, rfl⟩ | ⟨rfl, -⟩
  · rfl
  · exact writeReg_keeps_obuf_byte hwrite ha
  · rfl
  · rfl
  · rfl
  · exact absurd rfl hreset

/-- Settles O16: the reads are host reads of OBUF, and only an ENCODE's CMD write and a Reset reach its bytes. -/
theorem obufBytesStayUntilEncodeOrReset : Obligations.ObufBytesStayUntilEncodeOrReset :=
  ⟨fun _ i hidle => issue_obufRead_answers hidle i, fun _ _ _ _ h hreset ha => transact_keeps_obuf_byte h hreset ha⟩

end Sys2Proof.Machine
end

section
/-! Steps and the host's transactions (spec/20_memory.md R51, R64): their order, and that none is refused. -/

namespace Sys2Proof.Machine

variable {s s' : State}

theorem step_of_pending_nil (h : s.pending = []) : step s = .next s := by
  rw [step, busStep, h]

/-- A step runs the first pending transaction, which carries the rest of the list along. -/
theorem step_setPending_cons (s : State) (t : HostTxn) (ts : List HostTxn) :
    step (s.setPending (t :: ts)) = mapNext (·.setPending ts) (transact t s) :=
  transact_setPending s ts t

/-- Stepping through a pending list runs its transactions one after another, up to the first stop. -/
theorem runSteps_setPending (h : s.pending = []) (ts : List HostTxn) :
    runSteps ts.length (s.setPending ts) = transactAll ts s := by
  induction ts generalizing s with
  | nil =>
    have hself : s.setPending [] = s := by rw [← h]; rfl
    rw [hself]
    rfl
  | cons t ts ih =>
    rw [List.length_cons, runSteps, step_setPending_cons, transactAll]
    cases ht : transact t s with
    | next s' => exact ih ((transact_keeps_pending ht).trans h)
    | fault r => rfl
    | refused r => rfl

/-- Settles O8, by induction on the pending list. -/
theorem stepsTakeTransactionsInHostOrder : Obligations.StepsTakeTransactionsInHostOrder :=
  ⟨fun _ ts h => runSteps_setPending h ts, fun _ => step_of_pending_nil⟩

/-! ## No refusal -/

/-- The outcome is no refusal. -/
def NotRefused (o : Host.Outcome State Fault Refusal) : Prop := ∀ r, o ≠ .refused r

theorem withReg_notRefused {o bytes : Nat} {k : Reg → Host.Outcome State Fault Refusal}
    (h : ∀ r, NotRefused (k r)) : NotRefused (withReg o bytes k) := by
  unfold withReg
  split
  · split
    · exact h _
    · nofun
  · nofun

theorem hostReadByte_notRefused (m : Memory) (j : Nat) (s : State) : NotRefused (hostReadByte m j s) := by
  unfold hostReadByte
  split <;> nofun

/-- A command ends in a next state or on an unwritten byte, and an illegal word in a next state. -/
theorem runCommand_notRefused (v : Word) (s : State) : NotRefused (runCommand v s) := by
  unfold runCommand
  split
  · rename_i i _
    rcases exec_ends i (startCommand v s) with ⟨t, ht⟩ | ht <;> rw [ht] <;> nofun
  · nofun

theorem writeReg_notRefused (r : Reg) (v : Word) (s : State) : NotRefused (writeReg r v s) := by
  cases r with
  | cmd => exact runCommand_notRefused v s
  | _ => nofun

theorem transact_notRefused (t : HostTxn) (s : State) : NotRefused (transact t s) := by
  unfold transact
  split
  · nofun
  · cases t with
    | regRead o bytes => exact withReg_notRefused fun r => nofun
    | regWrite o bytes v => exact withReg_notRefused fun r => writeReg_notRefused r v _
    | ibufWrite j b => dsimp only [hostIbufWrite]; split <;> nofun
    | ibufRead j => dsimp only [hostIbufRead]; split; nofun; exact hostReadByte_notRefused _ _ _
    | obufRead j => dsimp only [hostObufRead]; split; nofun; exact hostReadByte_notRefused _ _ _
    | reset => nofun

/-- Settles O45: a step is idle or a transaction. -/
theorem noStepIsRefused : Obligations.NoStepIsRefused := by
  intro s
  cases hpending : s.pending with
  | nil =>
    rw [step_of_pending_nil hpending]
    nofun
  | cons t ts =>
    rw [step, busStep, hpending]
    exact transact_notRefused t _

end Sys2Proof.Machine
end

section
/-! When a command completes (spec/20_memory.md R56, R61, spec/70_reset_and_hazards.md R224): said once for each shared
operation, and read off for each command. -/

namespace Sys2Proof.Machine

variable {s : State}

/-- The outcome is a next state. -/
def Completes (o : Host.Outcome State Fault Refusal) : Prop := ∃ s', o = .next s'

@[simp] theorem completes_succeed (s : State) : Completes (succeed s) := ⟨_, rfl⟩

@[simp] theorem completes_raise (e : ErrCode) (s : State) : Completes (raise e s) := ⟨_, rfl⟩

/-- The bytes a MemRead gives are there exactly when they are written. -/
theorem written_iff_readN {a n : Nat} : s.Written a n ↔ ∃ bs, s.ibuf.readN a n = some bs := by
  rw [State.Written, ← Memory.readN_isSome, Option.isSome_iff_exists]

theorem written_add {a n k : Nat} : s.Written a (n + k) ↔ s.Written a n ∧ s.Written (a + n) k := by
  refine ⟨fun h => ⟨fun j hj => h j (by omega), fun j hj => ?_⟩, fun ⟨h₁, h₂⟩ j hj => ?_⟩
  · rw [Nat.add_assoc]
    exact h (n + j) (by omega)
  · rcases Nat.lt_or_ge j n with hlt | hge
    · exact h₁ j hlt
    · have := h₂ (j - n) (by omega)
      rwa [show a + n + (j - n) = a + j by omega] at this

theorem completes_memRead {a n : Nat} {k : List Byte → Host.Outcome State Fault Refusal} :
    Completes (memRead s a n k) ↔
      s.Written a n ∧ ∀ bs, s.ibuf.readN a n = some bs → Completes (k bs) := by
  rw [written_iff_readN]
  cases h : s.ibuf.readN a n with
  | none => simp [memRead_of_none h, Completes]
  | some bs => simp [memRead_of_some h]

/-- What is left after a MemRead may complete on a condition that does not depend on the bytes. -/
theorem completes_memRead_const {a n : Nat} {k : List Byte → Host.Outcome State Fault Refusal} {P : Prop}
    (h : ∀ bs, Completes (k bs) ↔ P) : Completes (memRead s a n k) ↔ s.Written a n ∧ P := by
  rw [completes_memRead]
  refine and_congr_right fun hwritten => ?_
  obtain ⟨bs, hbs⟩ := written_iff_readN.1 hwritten
  exact ⟨fun hk => (h bs).1 (hk bs hbs), fun hP bs _ => (h bs).2 hP⟩

theorem completes_takeInLen {k : Nat → Host.Outcome State Fault Refusal} :
    Completes (takeInLen s k) ↔ (s.inLen.toNat ≤ Config.ibufSize → Completes (k s.inLen.toNat)) := by
  rcases Nat.lt_or_ge Config.ibufSize s.inLen.toNat with h | h
  · simp [takeInLen, h, Nat.not_le.2 h]
  · simp [takeInLen_of_le h, h]

theorem completes_requireChunk {k : Host.Outcome State Fault Refusal} :
    Completes (requireChunk s k) ↔ (s.chValid = true → Completes k) := by
  unfold requireChunk
  cases s.chValid <;> simp

/-- A check that reports an error in front of the rest. -/
theorem completes_raise_if {c : Prop} [Decidable c] {e : ErrCode} {k : Host.Outcome State Fault Refusal} :
    Completes (if c then raise e s else k) ↔ (¬ c → Completes k) := by
  by_cases h : c <;> simp [h]

theorem completes_ite {c : Prop} [Decidable c] {o o' : Host.Outcome State Fault Refusal} (h : Completes o)
    (h' : Completes o') : Completes (if c then o else o') := by
  split
  · exact h
  · exact h'

/-! ## Command by command -/

theorem completes_execTcText : Completes (execTcText s) ↔ InputsWritten .tcText s := by
  have halphabet (t : List Byte) :
      Completes (if t.all alpha then succeed (s.setType (be32 t)) else raise .invalidFormat s) :=
    completes_ite (completes_succeed _) (completes_raise _ _)
  have hsize := Config.ibufSize_ge
  simp only [execTcText, completes_takeInLen, completes_raise_if, completes_memRead, halphabet, InputsWritten,
    not_not, implies_true, and_true]
  exact ⟨fun h hlen => h (by omega) hlen, fun h _ => h⟩

theorem completes_execChCrc : Completes (execChCrc s) ↔ InputsWritten .chCrc s := by
  simp only [execChCrc, completes_requireChunk, completes_memRead, completes_succeed, InputsWritten, implies_true,
    and_true]

theorem completes_execEncode : Completes (execEncode s) ↔ InputsWritten .encode s := by
  simp only [execEncode, completes_requireChunk, completes_raise_if, completes_memRead, completes_succeed,
    InputsWritten, implies_true, and_true, Nat.not_lt]

theorem completes_execChNew : Completes (execChNew s) ↔ InputsWritten .chNew s := by
  simp only [execChNew, completes_takeInLen, completes_succeed, InputsWritten, implies_true]

/-- From the type capture on, PARSE reads the rest of the frame: type, payload and CRC field. -/
theorem completes_parseBody {len : Word} : Completes (parseBody s len) ↔ s.Written 4 (8 + len.toNat) := by
  have hreads : Completes (parseBody s len) ↔
      s.Written 4 4 ∧ s.Written (4 + 4) len.toNat ∧ s.Written (4 + 4 + len.toNat) 4 :=
    completes_memRead_const fun _ => completes_memRead_const fun _ =>
      (completes_memRead_const fun _ => iff_true_intro
        (completes_ite (completes_raise _ _) (completes_succeed _))).trans (and_iff_left trivial)
  rw [hreads, ← written_add, ← written_add, show 4 + (len.toNat + 4) = 8 + len.toNat by omega]

/-- PARSE reads the length field, and the rest of a frame that is not truncated (R162, R165). -/
theorem completes_execParse : Completes (execParse s) ↔ InputsWritten .parse s := by
  simp only [execParse, completes_takeInLen, completes_raise_if, completes_memRead, completes_parseBody, not_lt]
  exact forall_comm

theorem completes_exec_iff (i : Instr) (s : State) : Completes (exec i s) ↔ InputsWritten i s := by
  cases i with
  | tcText => exact completes_execTcText
  | chCrc => exact completes_execChCrc
  | parse => exact completes_execParse
  | encode => exact completes_execEncode
  | chNew => exact completes_execChNew
  | nop => exact ⟨fun _ => trivial, fun _ => completes_succeed _⟩
  | crcInit => exact ⟨fun _ => trivial, fun _ => completes_succeed _⟩
  | crcByte b => exact ⟨fun _ => trivial, fun _ => completes_succeed _⟩
  | tcRaw => exact ⟨fun _ => trivial, fun _ => completes_succeed _⟩

theorem exec_of_not_inputsWritten {i : Instr} (h : ¬ InputsWritten i s) : exec i s = .fault .uninitialisedRead :=
  (exec_ends i s).resolve_left (mt (completes_exec_iff i s).1 h)

/-- Settles O43: a command that does not complete faults on an unwritten byte. -/
theorem commandsCompleteOnWrittenInputs : Obligations.CommandsCompleteOnWrittenInputs :=
  fun i s => ⟨(completes_exec_iff i s).2, exec_of_not_inputsWritten⟩

theorem execParse_of_gt (h : Config.ibufSize < s.inLen.toNat) :
    execParse s = .next ((s.setCrcMatch false).setErr .capacity) := by
  unfold execParse
  exact takeInLen_of_gt (s := s.setCrcMatch false) h _

/-- Settles O37: the CAPACITY check comes first, and the other two clauses are unwritten inputs of PARSE. -/
theorem parseCapacityFirstAndUnwrittenBytesFault : Obligations.ParseCapacityFirstAndUnwrittenBytesFault := by
  refine fun s => ⟨execParse_of_gt, fun h4 hle hlength => ?_,
    fun l hle hl hframe hrest => ?_⟩
  · exact exec_of_not_inputsWritten fun h => hlength (h h4 hle).1
  · exact exec_of_not_inputsWritten fun h => hrest ((h (by omega) hle).2 l hl hframe)

end Sys2Proof.Machine
end

section
/-! The opcode map and the decode rule (spec/30_encoding.md R71, R73, R74): the decoder inverts the encoder, the rows of the
map are the encoder's words, and the illegal words are told from the fields. -/

namespace Sys2Proof

theorem decode_eq_ok_iff {v : Word} {i : Instr} : decode v = .ok i ↔ v = encode i :=
  ⟨fun h => (encode_of_decode h).symm, fun h => h ▸ decode_encode i⟩

/-- Settles O2: `decode_encode` one way, `encode_of_decode` the other. -/
theorem decodeIsTheInverseOfEncode : Obligations.DecodeIsTheInverseOfEncode :=
  fun _ _ => decode_eq_ok_iff

/-- Settles O1: the legal words are the encoder's, and the illegal ones are evaluated. -/
theorem sampleWordsDecodeAsTheMapSays : Obligations.SampleWordsDecodeAsTheMapSays :=
  ⟨decode_encode .nop, decode_encode .crcInit, decode_encode (.crcByte 0x41#8), decode_encode (.crcByte 0xFF#8),
    decode_encode .tcRaw, decode_encode .tcText, decode_encode .chNew, decode_encode .chCrc, decode_encode .parse,
    decode_encode .encode, rfl, rfl, rfl, rfl⟩

/-! ## The rows of the opcode map -/

theorem cmdFields_and (v w : Word) : cmdFields (v &&& w) =
    ⟨(cmdFields v).rsv &&& (cmdFields w).rsv, (cmdFields v).imm8 &&& (cmdFields w).imm8,
      (cmdFields v).op &&& (cmdFields w).op⟩ := by
  simp only [cmdFields, BitVec.extractLsb'_and]

/-- The mask of CRC_BYTE's row leaves IMM8 free and fixes the other two fields. -/
theorem eq_encode_of_selects_crcByte {v : Word} (h : v &&& 0xFFFF00FF#32 = 0x00000002#32) :
    v = encode (.crcByte (cmdFields v).imm8) := by
  have hfields := (cmdFields_and v 0xFFFF00FF#32).symm.trans (congrArg cmdFields h)
  obtain ⟨hrsv, -, hop⟩ := Cmd32.mk.inj hfields
  have hrsv' : (cmdFields v).rsv = 0#16 := (BitVec.and_allOnes (w := 16)).symm.trans hrsv
  have hop' : (cmdFields v).op = 0x02#8 := (BitVec.and_allOnes (w := 8)).symm.trans hop
  rw [encode, Instr.fields, ← hrsv', ← hop']
  exact (cmdWord_cmdFields v).symm

/-- A word that matches a row is the word of a command with that row's mnemonic. -/
theorem exists_encode_of_matches {v : Word} : ∀ r ∈ opcodeTable, v &&& r.mask = r.pattern →
    ∃ i : Instr, v = encode i ∧ i.mnemonic = r.mnemonic := by
  have hfull (i : Instr) (h : v &&& 0xFFFFFFFF#32 = encode i) : ∃ j : Instr, v = encode j ∧ j.mnemonic = i.mnemonic :=
    ⟨i, (BitVec.and_allOnes (w := 32)).symm.trans h, rfl⟩
  simp only [opcodeTable, List.forall_mem_cons]
  exact ⟨hfull .nop, hfull .crcInit, fun h => ⟨_, eq_encode_of_selects_crcByte h, rfl⟩, hfull .tcRaw, hfull .tcText,
    hfull .chNew, hfull .chCrc, hfull .parse, hfull .encode, nofun⟩

theorem opcodeRow_eq_of_mnemonic_eq :
    ∀ r ∈ opcodeTable, ∀ r' ∈ opcodeTable, r.mnemonic = r'.mnemonic → r = r' := by decide

/-- Settles O3: a word is the word of one command, and a row is known by its command's mnemonic. -/
theorem atMostOneOpcodeRowMatches : Obligations.AtMostOneOpcodeRowMatches := by
  refine ⟨fun v r r' hr hr' h h' => ?_, fun v r hr h => ?_⟩
  · obtain ⟨i, hi, hm⟩ := exists_encode_of_matches r hr h
    obtain ⟨i', hi', hm'⟩ := exists_encode_of_matches r' hr' h'
    have hsame : i = i' := Except.ok.inj ((decode_eq_ok_iff.2 hi).symm.trans (decode_eq_ok_iff.2 hi'))
    exact opcodeRow_eq_of_mnemonic_eq r hr r' hr' (by rw [← hm, ← hm', hsame])
  · obtain ⟨i, hi, hm⟩ := exists_encode_of_matches r hr h
    exact ⟨i, decode_eq_ok_iff.2 hi, hm⟩

/-! ## The illegal words -/

theorem plainCommand_eq_none_iff (op : Byte) : plainCommand op = none ↔ op = 0x02#8 ∨ op ∉ assignedOps := by
  revert op; decide

/-- The three reasons of the decode rule, in the fields of the word. -/
theorem decode_isError_iff (v : Word) : (∃ e, decode v = .error e) ↔
    (cmdFields v).rsv ≠ 0#16 ∨ (cmdFields v).op ∉ assignedOps
      ∨ ((cmdFields v).op ≠ 0x02#8 ∧ (cmdFields v).imm8 ≠ 0#8) := by
  unfold decode
  generalize cmdFields v = c
  obtain ⟨rsv, imm8, op⟩ := c
  dsimp only
  by_cases hrsv : rsv = 0#16
  · by_cases hop : op = 0x02#8
    · have hmem : 0x02#8 ∈ assignedOps := by decide
      simp [hrsv, hop, hmem]
    · have hplain : plainCommand op = none ↔ op ∉ assignedOps := by simp [plainCommand_eq_none_iff, hop]
      cases hcommand : plainCommand op with
      | none => simp [hrsv, hop, hplain.1 hcommand]
      | some i =>
        have hmem : op ∈ assignedOps := not_not.1 fun h => by simp [hplain.2 h] at hcommand
        by_cases himm : imm8 = 0#8 <;> simp [hrsv, hop, hmem, himm]
  · simp [hrsv]

theorem toNat_cmdFields_rsv (v : Word) : (cmdFields v).rsv.toNat = v.toNat / 65536 := by
  rw [cmdFields, BitVec.extractLsb'_toNat, Nat.shiftRight_eq_div_pow]
  exact Nat.mod_eq_of_lt (by omega)

theorem toNat_cmdFields_imm8 (v : Word) : (cmdFields v).imm8.toNat = v.toNat / 256 % 256 := by
  rw [cmdFields, BitVec.extractLsb'_toNat, Nat.shiftRight_eq_div_pow]

theorem toNat_cmdFields_op (v : Word) : (cmdFields v).op.toNat = v.toNat % 256 := by
  rw [cmdFields, BitVec.extractLsb'_toNat, Nat.shiftRight_zero]

theorem mem_assignedOps_iff (op : Byte) :
    op ∈ assignedOps ↔ op.toNat ∈ [0x00, 0x01, 0x02, 0x10, 0x11, 0x20, 0x21, 0x30, 0x40] :=
  (List.mem_map_of_injective (f := BitVec.toNat) fun _ _ => BitVec.eq_of_toNat_eq).symm

/-- Settles O4: the three reasons, each field by its value; the unassigned opcodes are counted. -/
theorem illegalWordsAreThoseTheDecodeRuleNames : Obligations.IllegalWordsAreThoseTheDecodeRuleNames := by
  refine ⟨fun v => ?_, by decide +kernel⟩
  rw [decode_isError_iff, mem_assignedOps_iff]
  simp only [ne_eq, ← BitVec.toNat_inj, toNat_cmdFields_rsv, toNat_cmdFields_imm8, toNat_cmdFields_op,
    BitVec.toNat_ofNat, Nat.reducePow, Nat.reduceMod]

end Sys2Proof
end

section
/-! Lists of host transactions (spec/20_memory.md R64) and the commands a host issues in them (spec/30_encoding.md R76). -/

namespace Sys2Proof.Machine

variable {s s' : State}

theorem transactAll_cons {t : HostTxn} (h : transact t s = .next s') (ts : List HostTxn) :
    transactAll (t :: ts) s = transactAll ts s' := by
  rw [transactAll, h]

theorem transactAll_append {ts : List HostTxn} (h : transactAll ts s = .next s') (us : List HostTxn) :
    transactAll (ts ++ us) s = transactAll us s' := by
  induction ts generalizing s with
  | nil => cases h; rfl
  | cons t ts ih =>
    rw [transactAll] at h
    split at h
    · rename_i s'' ht
      exact (transactAll_cons ht (ts ++ us)).trans (ih h)
    · cases h
    · cases h

theorem transact_asm (h : s.busy = false) {i : Instr}
    (hexec : exec i (startCommand (encode i) (s.setReply none)) = .next s') :
    transact (asm i) s = .next (s'.setBusy false) := by
  rw [asm, transact_cmdWrite h, runCommand_of_decode (decode_encode i), hexec]
  rfl

theorem transact_crcInit (h : s.busy = false) : transact (asm .crcInit) s
    = .next { s with cmd := encode .crcInit, acc := crcInitial, err := 0#4, reply := none } := by
  rw [transact_asm h rfl, ← h]
  rfl

theorem transact_crcByte (h : s.busy = false) (b : Byte) : transact (asm (.crcByte b)) s
    = .next { s with cmd := encode (.crcByte b), acc := crcStep s.acc b, err := 0#4, reply := none } := by
  rw [transact_asm h rfl, ← h]
  rfl

/-! ## Feeding bytes to the CRC engine -/

theorem crcFold_append (acc : Word) (bs cs : List Byte) :
    crcFold acc (bs ++ cs) = crcFold (crcFold acc bs) cs := by
  induction bs generalizing acc with
  | nil => rfl
  | cons b bs ih => exact ih (crcStep acc b)

/-- One CRC_BYTE for each byte folds them all into ACC. -/
theorem transactAll_crcByte (hidle : s.busy = false) (herr : s.err = 0#4) (hreply : s.reply = none) (bs : List Byte) :
    ∃ w, transactAll (bs.map fun b => asm (.crcByte b)) s = .next { s with cmd := w, acc := crcFold s.acc bs } := by
  induction bs generalizing s with
  | nil => exact ⟨s.cmd, rfl⟩
  | cons b bs ih =>
    have hbyte : transact (asm (.crcByte b)) s
        = .next { s with cmd := encode (.crcByte b), acc := crcStep s.acc b } := by
      rw [transact_crcByte hidle, ← herr, ← hreply]
    rw [List.map_cons, transactAll_cons hbyte]
    exact ih hidle herr hreply

/-- Settles O23: CRC_INIT starts the fold that the CRC_BYTEs go on with. -/
theorem feedingBytesComputesTheirCrc : Obligations.FeedingBytesComputesTheirCrc := by
  refine ⟨crcFold_append, fun s bs hidle => ?_⟩
  obtain ⟨w, hfeed⟩ := transactAll_crcByte
    (s := { s with cmd := encode .crcInit, acc := crcInitial, err := 0#4, reply := none }) hidle rfl rfl bs
  exact ⟨_, (transactAll_cons (transact_crcInit hidle) _).trans hfeed, rfl, rfl⟩

end Sys2Proof.Machine
end

section
/-! The wire record and the round trip CH_NEW, ENCODE, COPYBACK, PARSE (spec/42_chunk.md R140, R143, R144, R147,
spec/43_parse.md R163 to R165). -/

namespace Sys2Proof.Machine

variable {s : State}

/-! ## The bytes of a record in a buffer -/

theorem Memory.readN_succ_eq_some {m : Memory} {a n : Nat} {b : Byte} {bs : List Byte} :
    m.readN a (n + 1) = some (b :: bs) ↔ m.read a = some b ∧ m.readN (a + 1) n = some bs := by
  rw [Memory.readN]
  cases m.read a <;> cases m.readN (a + 1) n <;> simp

/-- A sequence read as a whole is read in its two parts. -/
theorem Memory.readN_append {m : Memory} {a : Nat} {bs cs : List Byte}
    (h : m.readN a (bs.length + cs.length) = some (bs ++ cs)) :
    m.readN a bs.length = some bs ∧ m.readN (a + bs.length) cs.length = some cs := by
  obtain ⟨-, hread⟩ := (readN_eq_some ..).1 h
  refine ⟨(readN_eq_some ..).2 ⟨rfl, fun k hk => ?_⟩, (readN_eq_some ..).2 ⟨rfl, fun k hk => ?_⟩⟩
  · rw [hread k (by omega), List.getElem?_append_left hk]
  · rw [Nat.add_assoc, hread (bs.length + k) (by omega), List.getElem?_append_right (by omega),
      Nat.add_sub_cancel_left]

/-- The record of payload `d` stands at the start of the buffer, field by field (R143). -/
theorem readN_wireRecord {m : Memory} {t : Word} {d : List Byte}
    (h : m.readN 0 (d.length + 12) = some (wireRecord t d)) :
    m.readN 0 4 = some (bytes32 (BitVec.ofNat 32 d.length)) ∧ m.readN 4 4 = some (bytes32 t)
      ∧ m.readN 8 d.length = some d ∧ m.readN (8 + d.length) 4 = some (bytes32 (crc32 (bytes32 t ++ d))) := by
  have hlen (v : Word) : (bytes32 v).length = 4 := rfl
  rw [← length_wireRecord t d, wireRecord, List.length_append] at h
  obtain ⟨hpayload, hcrc⟩ := Memory.readN_append h
  rw [List.length_append] at hpayload
  obtain ⟨hhead, hdata⟩ := Memory.readN_append hpayload
  rw [List.length_append] at hhead
  obtain ⟨hlength, htype⟩ := Memory.readN_append hhead
  simp only [List.length_append, hlen, Nat.zero_add, Nat.reduceAdd] at hlength htype hdata hcrc
  exact ⟨hlength, htype, hdata, hcrc⟩

/-! ## The commands of the round trip, where they succeed -/

theorem execChNew_of_le (h : s.inLen.toNat ≤ Config.ibufSize) :
    execChNew s = .next ((s.setChunk s.inLen s.type 0#32).setErr .none) :=
  takeInLen_of_le h _

theorem requireChunk_of_live (h : s.chValid = true) (k : Host.Outcome State Fault Refusal) : requireChunk s k = k :=
  if_pos h

/-- What ENCODE writes, with the four MemWrites of R144 as the one of the record. -/
theorem emitRecord_eq {d : List Byte} (h : d.length = s.chLen.toNat) : emitRecord s d = { s with
    acc := chunkAcc s.chType d, obuf := s.obuf.writeN 0 (wireRecord s.chType d)
    outLen := BitVec.ofNat 32 (s.chLen.toNat + 12) } := by
  rw [← emitRecord_obuf s d h]
  rfl

theorem execEncode_of_readN {d : List Byte} (hlive : s.chValid = true)
    (hfit : s.chLen.toNat + 12 ≤ Config.obufSize) (hd : s.ibuf.readN s.chOff.toNat s.chLen.toNat = some d) :
    execEncode s = .next { s with
      acc := chunkAcc s.chType d, obuf := s.obuf.writeN 0 (wireRecord s.chType d)
      outLen := BitVec.ofNat 32 (s.chLen.toNat + 12), err := 0#4 } := by
  rw [execEncode, requireChunk_of_live hlive, if_neg (Nat.not_lt.2 hfit), memRead_of_some hd,
    emitRecord_eq (Memory.readN_length hd)]
  rfl

/-- PARSE of a frame that is not truncated goes on to the frame's body (R162). -/
theorem execParse_of_fits {l : List Byte} (hle : s.inLen.toNat ≤ Config.ibufSize) (hl : s.ibuf.readN 0 4 = some l)
    (hfit : 12 + (be32 l).toNat ≤ s.inLen.toNat) :
    execParse s = parseBody ((s.setCrcMatch false).setDecLen (be32 l)) (be32 l) := by
  have hlong : ¬ s.inLen.toNat < 4 := by omega
  unfold execParse
  refine (takeInLen_of_le (s := s.setCrcMatch false) hle _).trans ((if_neg hlong).trans ?_)
  exact (memRead_of_some (s := s.setCrcMatch false) hl _).trans (if_neg (Nat.not_lt.2 hfit))

theorem parseBody_of_match {len : Word} {t d e : List Byte} (ht : s.ibuf.readN 4 4 = some t)
    (hd : s.ibuf.readN 8 len.toNat = some d) (he : s.ibuf.readN (8 + len.toNat) 4 = some e)
    (hcrc : crc32 (t ++ d) = be32 e) :
    parseBody s len = .next ((((parseDiag s t d e).setCrcMatch true).setChunk len (be32 t) 8#32).setErr .none) := by
  calc parseBody s len
      = _ := memRead_of_some ht _
    _ = _ := memRead_of_some hd _
    _ = _ := memRead_of_some he _
    _ = _ := if_neg (not_not.2 hcrc)

/-! ## COPYBACK -/

theorem transact_obufRead (hidle : s.busy = false) {i : Nat} {b : Byte} (hi : i < Config.obufSize)
    (hb : s.obuf.read i = some b) : transact (.obufRead i) s = .next (s.setReply (some (.byte b))) := by
  obtain ⟨-, -, hread⟩ := issue_obufRead_answers hidle i
  exact hread b hi hb

theorem transact_ibufWrite (hidle : s.busy = false) {i : Nat} (hi : i < Config.ibufSize) (b : Byte) :
    transact (.ibufWrite i b) s = .next ((s.writeIbuf i b).setReply none) := by
  rw [transact_of_idle hidle]
  exact if_neg (Nat.not_le.2 hi)

theorem transact_wr_inLen (hidle : s.busy = false) (v : Word) :
    transact (wr .inLen v) s = .next ((s.setReply none).setInLen v) :=
  issue_regWrite hidle .inLen v

/-- Copying one byte moves it from OBUF to the same index of IBUF. -/
theorem transactAll_copyByte {s₁ : State} (hidle : s.busy = false) (hobuf : s.obuf = s₁.obuf) {i : Nat} {b : Byte}
    (hi : i < Config.ibufSize) (hb : s₁.obuf.read i = some b) :
    transactAll (copyByte s₁ i) s = .next ((s.writeIbuf i b).setReply none) := by
  have hio : i < Config.obufSize := by have := Config.obufSize_ge; omega
  rw [copyByte, hb]
  exact (transactAll_cons (transact_obufRead hidle hio (hobuf ▸ hb)) _).trans
    (transactAll_cons (transact_ibufWrite (s := s.setReply (some (.byte b))) hidle hi b) [])

/-- Copying written bytes of OBUF writes them to IBUF; besides, only CH_VALID and the reply can change. -/
theorem transactAll_copyBytes {s₁ : State} (hidle : s.busy = false) (hobuf : s.obuf = s₁.obuf) {a : Nat}
    {bs : List Byte} (hfit : a + bs.length ≤ Config.ibufSize) (hbs : s₁.obuf.readN a bs.length = some bs) :
    ∃ v r, transactAll ((List.range' a bs.length).flatMap (copyByte s₁)) s
      = .next { s with ibuf := s.ibuf.writeN a bs, chValid := v, reply := r } := by
  induction bs generalizing s a with
  | nil => exact ⟨s.chValid, s.reply, rfl⟩
  | cons b bs ih =>
    rw [List.length_cons] at hfit hbs
    obtain ⟨hb, hbs⟩ := Memory.readN_succ_eq_some.1 hbs
    obtain ⟨v, r, hrest⟩ := ih (s := (s.writeIbuf a b).setReply none) hidle hobuf (by omega) hbs
    refine ⟨v, r, ?_⟩
    rw [List.length_cons, List.range'_succ, List.flatMap_cons,
      transactAll_append (transactAll_copyByte hidle hobuf (by omega) hb), hrest]
    rfl

/-- COPYBACK of a record that IBUF can hold leaves it at the start of IBUF, its length in IN_LEN (R77). -/
theorem transactAll_copybackOp (hidle : s.busy = false) {bs : List Byte} (hlen : s.outLen.toNat = bs.length)
    (hfit : bs.length ≤ Config.ibufSize) (hbs : s.obuf.readN 0 bs.length = some bs) :
    ∃ s', transactAll (copybackOp s) s = .next s' ∧ s'.busy = false ∧ s'.inLen = s.outLen
      ∧ s'.ibuf.readN 0 bs.length = some bs := by
  obtain ⟨v, r, hcopy⟩ := transactAll_copyBytes hidle rfl (a := 0) (by omega) hbs
  have hwr := transact_wr_inLen (s := { s with ibuf := s.ibuf.writeN 0 bs, chValid := v, reply := r }) hidle s.outLen
  refine ⟨_, Eq.trans ?_ (transactAll_cons hwr []), hidle, rfl, Memory.readN_writeN_same s.ibuf 0 bs⟩
  rw [copybackOp, hlen, List.range_eq_range', transactAll_append hcopy]

/-! ## The round trip -/

theorem transact_chNew (hidle : s.busy = false) (h : s.inLen.toNat ≤ Config.ibufSize) :
    transact (asm .chNew) s = .next { s with
      cmd := encode .chNew, chLen := s.inLen, chType := s.type, chOff := 0#32, chValid := true
      err := 0#4, reply := none } := by
  have hexec := execChNew_of_le (s := startCommand (encode .chNew) (s.setReply none)) h
  rw [transact_asm (i := .chNew) hidle hexec, ← hidle]
  rfl

theorem transact_encode {d : List Byte} (hidle : s.busy = false) (hlive : s.chValid = true)
    (hfit : s.chLen.toNat + 12 ≤ Config.obufSize) (hd : s.ibuf.readN s.chOff.toNat s.chLen.toNat = some d) :
    transact (asm .encode) s = .next { s with
      cmd := encode .encode, acc := chunkAcc s.chType d
      obuf := s.obuf.writeN 0 (wireRecord s.chType d), outLen := BitVec.ofNat 32 (s.chLen.toNat + 12)
      err := 0#4, reply := none } := by
  have hexec := execEncode_of_readN (s := startCommand (encode .encode) (s.setReply none)) hlive hfit hd
  rw [transact_asm (i := .encode) hidle hexec, ← hidle]
  rfl

/-- CH_NEW and ENCODE of the payload in IBUF put its record in OBUF (R140, R144). -/
theorem transactAll_chNew_encode {d : List Byte} (hidle : s.busy = false) (hfit : d.length + 12 ≤ Config.ibufSize)
    (hlen : s.inLen.toNat = d.length) (hd : s.ibuf.readN 0 d.length = some d) :
    ∃ s', transactAll [asm .chNew, asm .encode] s = .next s' ∧ s'.busy = false
      ∧ s'.outLen.toNat = d.length + 12 ∧ s'.obuf.readN 0 (d.length + 12) = some (wireRecord s.type d) := by
  have hibuf := Config.ibufSize_le
  have hobuf := Config.obufSize_ge
  rw [← hlen] at hd
  have hnew := transact_chNew hidle (by omega)
  have hencode := transact_encode (d := d) (s := { s with
    cmd := encode .chNew, chLen := s.inLen, chType := s.type, chOff := 0#32, chValid := true
    err := 0#4, reply := none }) hidle rfl (by dsimp only; omega) hd
  refine ⟨_, (transactAll_cons hnew _).trans (transactAll_cons hencode []), hidle, ?_, ?_⟩
  · dsimp only
    rw [hlen, BitVec.toNat_ofNat, Nat.mod_eq_of_lt (by omega)]
  · rw [← length_wireRecord s.type d]
    exact Memory.readN_writeN_same s.obuf 0 _

/-- PARSE of a record accepts it and builds its chunk (R163, R164). -/
theorem execParse_of_record {t : Word} {d : List Byte} (hlen : s.inLen.toNat = d.length + 12)
    (hfit : d.length + 12 ≤ Config.ibufSize) (hrecord : s.ibuf.readN 0 (d.length + 12) = some (wireRecord t d)) :
    execParse s = .next { s with
      decLen := BitVec.ofNat 32 d.length, acc := chunkAcc t d, expCrc := crc32 (bytes32 t ++ d), crcMatch := true
      chLen := BitVec.ofNat 32 d.length, chType := t, chOff := 8#32, chValid := true, err := 0#4 } := by
  have hibuf := Config.ibufSize_le
  have hdlen : (BitVec.ofNat 32 d.length).toNat = d.length := by
    rw [BitVec.toNat_ofNat, Nat.mod_eq_of_lt (by omega)]
  obtain ⟨hl, ht, hd, he⟩ := readN_wireRecord hrecord
  have hbody := execParse_of_fits (by omega) hl (by rw [be32_bytes32]; omega)
  rw [← hdlen] at hd he
  rw [be32_bytes32] at hbody
  rw [hbody, parseBody_of_match (s := (s.setCrcMatch false).setDecLen _) ht hd he (be32_bytes32 _).symm]
  simp only [parseDiag, be32_bytes32, State.setErr, State.setChunk, State.setCrcMatch, State.setExpCrc, State.setAcc,
    State.setDecLen]
  rfl

theorem transact_parse_of_record {t : Word} {d : List Byte} (hidle : s.busy = false)
    (hlen : s.inLen.toNat = d.length + 12) (hfit : d.length + 12 ≤ Config.ibufSize)
    (hrecord : s.ibuf.readN 0 (d.length + 12) = some (wireRecord t d)) :
    transact (asm .parse) s = .next { s with
      cmd := encode .parse, decLen := BitVec.ofNat 32 d.length, acc := chunkAcc t d
      expCrc := crc32 (bytes32 t ++ d), crcMatch := true
      chLen := BitVec.ofNat 32 d.length, chType := t, chOff := 8#32, chValid := true
      err := 0#4, reply := none } := by
  have hexec := execParse_of_record (s := startCommand (encode .parse) (s.setReply none)) hlen hfit hrecord
  rw [transact_asm (i := .parse) hidle hexec, ← hidle]
  rfl

/-- Settles O51: ENCODE puts the record in OBUF, COPYBACK brings it to IBUF, and PARSE accepts it there. -/
theorem encodeThenParseIsTheSameChunk : Obligations.EncodeThenParseIsTheSameChunk := by
  intro s d hidle hfit hlen hd
  have hinLen : BitVec.ofNat 32 d.length = s.inLen := by rw [← hlen, BitVec.ofNat_toNat, BitVec.setWidth_eq]
  have hrecLen := length_wireRecord s.type d
  obtain ⟨s₁, hrun₁, hidle₁, hout₁, hrec₁⟩ := transactAll_chNew_encode hidle hfit hlen hd
  obtain ⟨s₂, hrun₂, hidle₂, hin₂, hrec₂⟩ := transactAll_copybackOp hidle₁ (hout₁.trans hrecLen.symm)
    (hrecLen.trans_le hfit) (hrecLen ▸ hrec₁)
  rw [hrecLen] at hrec₂
  have hrun₃ := transact_parse_of_record hidle₂ (hin₂ ▸ hout₁) hfit hrec₂
  obtain ⟨-, -, -, hcrc₁⟩ := readN_wireRecord hrec₁
  obtain ⟨-, -, hd₂, -⟩ := readN_wireRecord hrec₂
  exact ⟨s₁, s₂, _, hrun₁, hrun₂, transactAll_cons hrun₃ [], rfl, rfl, hinLen, rfl, rfl, hd₂, rfl, rfl, hcrc₁⟩

end Sys2Proof.Machine
end

section
/-! The type-code unit (spec/40_typecode.md R100 to R108): the flags as the case bits of type bytes 0 and 2, and every
outcome of TC_RAW and TC_TEXT. -/

namespace Sys2Proof.Machine

variable {s s' : State}

/-! ## The case bit of a byte -/

theorem and_caseBit_eq_zero_iff (b : Byte) : b &&& 0x20#8 = 0#8 ↔ b.getLsbD 5 = false := by
  have hand : b &&& 0x20#8 = if b.getLsbD 5 then 0x20#8 else 0#8 := BitVec.and_twoPow b 5
  rw [hand]
  cases b.getLsbD 5 <;> simp

theorem caseBit_typeByte (t : Word) (i : Nat) : (typeByte t i).getLsbD 5 = t.getLsbD (24 - 8 * i + 5) := by
  simp [typeByte]

theorem critical_iff (t : Word) : critical t = true ↔ t.getLsbD 29 = false := by simp [critical]

theorem reservedBitValid_iff (t : Word) : reservedBitValid t = true ↔ t.getLsbD 13 = false := by
  simp [reservedBitValid]

theorem critical_iff_typeByte (t : Word) : critical t = true ↔ typeByte t 0 &&& 0x20#8 = 0#8 := by
  rw [critical_iff, and_caseBit_eq_zero_iff, caseBit_typeByte]

theorem reservedBitValid_iff_typeByte (t : Word) : reservedBitValid t = true ↔ typeByte t 2 &&& 0x20#8 = 0#8 := by
  rw [reservedBitValid_iff, and_caseBit_eq_zero_iff, caseBit_typeByte]

/-- Settles O25: bits 29 and 13 of the packed code are bit 5 of its bytes 0 and 2. -/
theorem typeFlagsAreTheCaseBits : Obligations.TypeFlagsAreTheCaseBits :=
  fun t => ⟨critical_iff t, critical_iff_typeByte t, reservedBitValid_iff t, reservedBitValid_iff_typeByte t, rfl⟩

/-! ## Letters -/

theorem alpha_iff_letter (b : Byte) : alpha b = true ↔ Letter b := by
  simp [alpha, Letter, UpperLetter, BitVec.le_def]

theorem all_alpha_iff (a b c d : Byte) :
    [a, b, c, d].all alpha = true ↔ Letter a ∧ Letter b ∧ Letter c ∧ Letter d := by
  simp [alpha_iff_letter]

/-- Among the letters, the case bit is clear in the upper-case ones (R105). -/
theorem Letter.caseBit_clear_iff_upper {b : Byte} (h : Letter b) : b &&& 0x20#8 = 0#8 ↔ UpperLetter b := by
  have hbit : b.getLsbD 5 = decide (b.toNat / 2 ^ 5 % 2 = 1) := Nat.testBit_eq_decide_div_mod_eq
  unfold Letter UpperLetter at *
  rw [and_caseBit_eq_zero_iff, hbit, decide_eq_false_iff_not]
  omega

theorem typeByte_be32 (a b c d : Byte) :
    typeByte (be32 [a, b, c, d]) 0 = a ∧ typeByte (be32 [a, b, c, d]) 1 = b
      ∧ typeByte (be32 [a, b, c, d]) 2 = c ∧ typeByte (be32 [a, b, c, d]) 3 = d := by
  simpa using (bytes32_eq_typeBytes _).symm.trans (bytes32_be32 a b c d)

/-! ## The commands -/

/-- Settles O27: TC_RAW reads nothing but ARG0. -/
theorem tcRawCopiesArg0 : Obligations.TcRawCopiesArg0 :=
  ⟨decode_encode .tcRaw, fun _ => rfl⟩

theorem execTcText_of_gt (h : Config.ibufSize < s.inLen.toNat) : execTcText s = .next (s.setErr .capacity) :=
  takeInLen_of_gt h _

theorem execTcText_of_ne_four (hle : s.inLen.toNat ≤ Config.ibufSize) (hne : s.inLen.toNat ≠ 4) :
    execTcText s = .next (s.setErr .invalidFormat) :=
  (takeInLen_of_le hle _).trans (if_pos hne)

/-- TC_TEXT on four written bytes: the alphabet decides (R108). -/
theorem execTcText_of_readN {t : List Byte} (hlen : s.inLen.toNat = 4) (ht : s.ibuf.readN 0 4 = some t) :
    execTcText s = if t.all alpha then .next ((s.setType (be32 t)).setErr .none)
      else .next (s.setErr .invalidFormat) := by
  have hle : s.inLen.toNat ≤ Config.ibufSize := by have := Config.ibufSize_ge; omega
  calc execTcText s
      = _ := takeInLen_of_le hle _
    _ = _ := if_neg (not_not.2 hlen)
    _ = _ := memRead_of_some ht _

/-- Settles O28: the checks in R108's order; an unwritten byte is an unwritten input of TC_TEXT. -/
theorem tcTextLoadsFourLettersOrReports : Obligations.TcTextLoadsFourLettersOrReports := by
  refine ⟨decode_encode .tcText, fun s => ⟨execTcText_of_gt, execTcText_of_ne_four, fun hlen hunwritten => ?_,
    fun a b c d hlen hread => ⟨fun hletters => ?_, fun hletters => ?_⟩⟩⟩
  · exact exec_of_not_inputsWritten fun hinputs => hunwritten (hinputs hlen)
  · exact (execTcText_of_readN hlen hread).trans (if_pos ((all_alpha_iff a b c d).2 hletters))
  · exact (execTcText_of_readN hlen hread).trans (if_neg (mt (all_alpha_iff a b c d).1 hletters))

theorem err_setErr_eq_zero_iff {e : ErrCode} : (s.setErr e).err = 0#4 ↔ e = .none := by
  rw [State.setErr_err]
  cases e <;> decide

/-- A TC_TEXT that succeeds has read four letters into TYPE. -/
theorem execTcText_success (h : execTcText s = .next s') (herr : s'.err = 0#4) :
    ∃ t, s.ibuf.readN 0 4 = some t ∧ t.all alpha = true ∧ s'.type = be32 t := by
  obtain ⟨-, rfl⟩ | ⟨-, -, rfl⟩ | ⟨-, t, -, -, rfl⟩ | ⟨-, t, ht, hletters, rfl⟩ := execTcText_next h
  · exact nomatch err_setErr_eq_zero_iff.1 herr
  · exact nomatch err_setErr_eq_zero_iff.1 herr
  · exact nomatch err_setErr_eq_zero_iff.1 herr
  · exact ⟨t, ht, hletters, rfl⟩

/-- Settles O29: the flags are the case bits of bytes 0 and 2, which a successful TC_TEXT has found to be letters. -/
theorem textTypeFlagsAreUpperCase : Obligations.TextTypeFlagsAreUpperCase := by
  intro s s' a b c d h herr hread
  obtain ⟨t, ht, hletters, htype⟩ := execTcText_success h herr
  obtain rfl : [a, b, c, d] = t := Option.some.inj (hread.symm.trans ht)
  obtain ⟨ha, -, hc, -⟩ := (all_alpha_iff a b c d).1 hletters
  obtain ⟨hbyte0, -, hbyte2, -⟩ := typeByte_be32 a b c d
  rw [critical_iff_typeByte, reservedBitValid_iff_typeByte, htype, hbyte0, hbyte2]
  exact ⟨ha.caseBit_clear_iff_upper, hc.caseBit_clear_iff_upper⟩

end Sys2Proof.Machine
end

section
/-! The CRC engine (spec/41_crc.md R120 to R127). A round is linear and injective. Linearity makes the table step the
bit-serial step, and injectivity keeps two CRCs apart once one byte has set them apart. -/

namespace Sys2Proof.Machine

/-! ## One round, bit by bit -/

theorem getLsbD_crcShift (c : Word) (k : Nat) :
    (crcShift c).getLsbD k = ((c.getLsbD 0 && crcPoly.getLsbD k) ^^ c.getLsbD (k + 1)) := by
  unfold crcShift
  split
  · rename_i hlow
    rw [BitVec.getLsbD_xor, BitVec.getLsbD_ushiftRight, hlow, Bool.true_and, Nat.add_comm]
  · rename_i hlow
    rw [BitVec.getLsbD_ushiftRight, Bool.eq_false_iff.2 hlow, Bool.false_and, Bool.false_xor, Nat.add_comm]

theorem crcShift_xor (c d : Word) : crcShift (c ^^^ d) = crcShift c ^^^ crcShift d := by
  refine BitVec.eq_of_getLsbD_eq fun k _ => ?_
  simp only [BitVec.getLsbD_xor, getLsbD_crcShift, Bool.and_xor_distrib_right, Bool.xor_assoc,
    Bool.xor_left_comm]

/-- The polynomial's top bit is set and the shifted word's is clear, so bit 31 of the result is the bit shifted out. -/
theorem getLsbD_crcShift_top (c : Word) : (crcShift c).getLsbD 31 = c.getLsbD 0 := by
  have hpoly : crcPoly.getLsbD 31 = true := rfl
  have hpast : c.getLsbD 32 = false := BitVec.getLsbD_of_ge c 32 le_rfl
  rw [getLsbD_crcShift, hpoly, hpast, Bool.and_true, Bool.xor_false]

theorem crcShift_injective : Function.Injective crcShift := by
  intro c d h
  have hlow : c.getLsbD 0 = d.getLsbD 0 := by rw [← getLsbD_crcShift_top, h, getLsbD_crcShift_top]
  refine BitVec.eq_of_getLsbD_eq fun k _ => ?_
  cases k with
  | zero => exact hlow
  | succ k =>
    have hbit := congrArg (·.getLsbD k) h
    simpa only [getLsbD_crcShift, hlow, Bool.xor_right_inj] using hbit

/-! ## Several rounds -/

theorem crcShifts_xor (n : Nat) (c d : Word) : crcShifts n (c ^^^ d) = crcShifts n c ^^^ crcShifts n d := by
  induction n generalizing c d with
  | zero => rfl
  | succ n ih => rw [crcShifts, crcShift_xor, ih, crcShifts, crcShifts]

theorem crcShifts_injective (n : Nat) : Function.Injective (crcShifts n) := by
  induction n with
  | zero => exact fun _ _ h => h
  | succ n ih => exact fun _ _ h => crcShift_injective (ih h)

/-- While the bits shifted out are 0, the rounds only shift. -/
theorem crcShifts_of_low_zero {n : Nat} {c : Word} (h : ∀ k < n, c.getLsbD k = false) : crcShifts n c = c >>> n := by
  induction n generalizing c with
  | zero => exact (BitVec.ushiftRight_zero c).symm
  | succ n ih =>
    have hround : crcShift c = c >>> 1 := by rw [crcShift, h 0 n.succ_pos, if_neg Bool.false_ne_true]
    have hlow : ∀ k < n, (c >>> 1).getLsbD k = false := fun k hk => by
      rw [BitVec.getLsbD_ushiftRight]
      exact h (1 + k) (by omega)
    rw [crcShifts, hround, ih hlow, ← BitVec.shiftRight_add, Nat.add_comm]

/-! ## One byte -/

theorem zext32_injective : Function.Injective zext32 := fun b c h => by
  have hval := congrArg BitVec.toNat h
  rw [zext32, zext32, BitVec.toNat_setWidth_of_le (by decide), BitVec.toNat_setWidth_of_le (by decide)] at hval
  exact BitVec.eq_of_toNat_eq hval

theorem zext32_ushiftRight (b : Byte) : zext32 b >>> 8 = 0#32 := by
  refine BitVec.eq_of_getLsbD_eq fun k _ => ?_
  rw [BitVec.getLsbD_ushiftRight, zext32, BitVec.getLsbD_setWidth, BitVec.getLsbD_of_ge b _ (by omega)]
  simp

/-- A word is its low byte with the bits above it. -/
theorem zext32_xor_high (c : Word) : zext32 (c.extractLsb' 0 8) ^^^ (c >>> 8) <<< 8 = c := by
  refine BitVec.eq_of_getLsbD_eq fun k hk => ?_
  rw [BitVec.getLsbD_xor, zext32, BitVec.getLsbD_setWidth, BitVec.getLsbD_extractLsb', BitVec.getLsbD_shiftLeft,
    BitVec.getLsbD_ushiftRight]
  by_cases hlow : k < 8
  · simp [hk, hlow]
  · simp [hk, hlow, Nat.add_sub_of_le (Nat.le_of_not_lt hlow)]

/-- The table holds the rounds' effect on the low byte; the bits above it are only shifted. -/
theorem crcShifts_eight (c : Word) : crcShifts 8 c = crcTable (c.extractLsb' 0 8) ^^^ (c >>> 8) := by
  have hlow : ∀ k < 8, ((c >>> 8) <<< 8).getLsbD k = false := fun k hk => by simp [BitVec.getLsbD_shiftLeft, hk]
  have hhigh : (c >>> 8) <<< 8 >>> 8 = c >>> 8 := by
    conv_rhs => rw [← zext32_xor_high c, BitVec.ushiftRight_xor_distrib, zext32_ushiftRight, BitVec.zero_xor]
  calc crcShifts 8 c
      = crcShifts 8 (zext32 (c.extractLsb' 0 8) ^^^ (c >>> 8) <<< 8) := by rw [zext32_xor_high]
    _ = crcTable (c.extractLsb' 0 8) ^^^ (c >>> 8) := by rw [crcShifts_xor, crcShifts_of_low_zero hlow, hhigh, crcTable]

/-- Settles O21: the byte lies below the bits that are only shifted. -/
theorem tableStepEqualsBitSerialStep : Obligations.TableStepEqualsBitSerialStep := by
  intro acc b
  rw [crcStepSerial, crcShifts_eight, BitVec.ushiftRight_xor_distrib, zext32_ushiftRight, BitVec.xor_zero, crcStep]

/-! ## Error detection -/

theorem crcStep_eq_crcShifts (acc : Word) (b : Byte) : crcStep acc b = crcShifts 8 (acc ^^^ zext32 b) :=
  tableStepEqualsBitSerialStep acc b

theorem crcStep_byte_injective (acc : Word) : Function.Injective (crcStep acc) := by
  intro b c h
  rw [crcStep_eq_crcShifts, crcStep_eq_crcShifts] at h
  exact zext32_injective (BitVec.xor_right_inj _ |>.1 (crcShifts_injective 8 h))

theorem crcStep_acc_injective (b : Byte) : Function.Injective fun acc => crcStep acc b := by
  intro a a' h
  simp only [crcStep_eq_crcShifts] at h
  exact BitVec.xor_left_inj _ |>.1 (crcShifts_injective 8 h)

theorem crcFold_injective (bs : List Byte) : Function.Injective fun acc => crcFold acc bs := by
  induction bs with
  | nil => exact fun _ _ h => h
  | cons b bs ih => exact fun _ _ h => crcStep_acc_injective b (ih h)

/-- Settles O24: the differing byte gives two accumulators, and equal bytes never make them one again. -/
theorem crcDetectsEveryOneByteError : Obligations.CrcDetectsEveryOneByteError := by
  intro p q b c hne h
  have hfold : crcFold crcInitial (p ++ b :: q) = crcFold crcInitial (p ++ c :: q) := BitVec.xor_left_inj _ |>.1 h
  rw [crcFold_append, crcFold_append] at hfold
  exact hne (crcStep_byte_injective _ (crcFold_injective q hfold))

/-! ## The commands and the known values -/

/-- Settles O19: ACC and the final XOR cancel. -/
theorem crcInitRestartsTheEngine : Obligations.CrcInitRestartsTheEngine :=
  ⟨decode_encode .crcInit, fun _ => ⟨rfl, _, rfl, BitVec.xor_self, BitVec.xor_self⟩⟩

theorem encode_crcByte (b : Byte) : encode (.crcByte b) = 0x00000002#32 ||| (b.setWidth 32 <<< 8) := by
  rw [BitVec.or_comm, ← BitVec.zero_or (x := b.setWidth 32 <<< 8)]
  rfl

/-- Settles O20: the word is the encoder's, and the step is the table's. -/
theorem crcByteFeedsOneByte : Obligations.CrcByteFeedsOneByte :=
  ⟨fun b => encode_crcByte b ▸ decode_encode (.crcByte b), fun _ _ => rfl, by decide, by decide, by decide⟩

/-- Settles O22, by evaluation. -/
theorem crcKnownValues : Obligations.CrcKnownValues :=
  ⟨by decide, by decide, by decide, by decide, by decide, by decide +kernel, by decide +kernel⟩

end Sys2Proof.Machine
end

section
/-! The chunk unit (spec/42_chunk.md R140 to R145): every outcome of CH_NEW, CH_CRC and ENCODE, the layout of the wire
record, and what CH_CRC and ENCODE give for a chunk that PARSE built. -/

namespace Sys2Proof.Machine

variable {s s' : State}

/-! ## The commands, outcome by outcome -/

theorem execChNew_of_gt (h : Config.ibufSize < s.inLen.toNat) : execChNew s = .next (s.setErr .capacity) :=
  takeInLen_of_gt h _

/-- Settles O30: CH_NEW's one check is IN_LEN's, and it reads no byte. -/
theorem chNewBuildsTheChunk : Obligations.ChNewBuildsTheChunk :=
  ⟨decode_encode .chNew, fun _ => ⟨execChNew_of_gt, execChNew_of_le⟩⟩

theorem requireChunk_of_not_live (h : s.chValid = false) (k : Host.Outcome State Fault Refusal) :
    requireChunk s k = .next (s.setErr .noChunk) :=
  if_neg (Bool.eq_false_iff.1 h)

theorem execChCrc_of_readN {d : List Byte} (hlive : s.chValid = true)
    (hd : s.ibuf.readN s.chOff.toNat s.chLen.toNat = some d) :
    execChCrc s = .next ((s.setAcc (chunkAcc s.chType d)).setErr .none) :=
  (requireChunk_of_live hlive _).trans (memRead_of_some hd _)

/-- With a chunk's accumulator in ACC, CRC_OUT is the chunk's CRC (R28, R141). -/
theorem crcOut_of_acc {t : Word} {d : List Byte} (h : s.acc = chunkAcc t d) : s.crcOut = crc32 (bytes32 t ++ d) := by
  rw [State.crcOut, h]
  rfl

/-- Settles O31: NO_CHUNK, an unwritten input of CH_CRC, or the fold over type bytes and payload. -/
theorem chCrcComputesTheChunkCrc : Obligations.ChCrcComputesTheChunkCrc := by
  refine ⟨decode_encode .chCrc, fun s => ⟨fun hdead => requireChunk_of_not_live hdead _, fun hlive hunwritten => ?_,
    fun d hlive hd => ⟨execChCrc_of_readN hlive hd, _, execChCrc_of_readN hlive hd, crcOut_of_acc rfl⟩⟩⟩
  exact exec_of_not_inputsWritten fun hinputs => hunwritten (hinputs hlive)

theorem execEncode_of_too_long (hlive : s.chValid = true) (hlong : Config.obufSize < s.chLen.toNat + 12) :
    execEncode s = .next (s.setErr .capacity) :=
  (requireChunk_of_live hlive _).trans (if_pos hlong)

/-- A record that is written at the start of a buffer is read there. -/
theorem readN_writeN_wireRecord (m : Memory) (t : Word) {d : List Byte} {n : Nat} (h : d.length = n) :
    (m.writeN 0 (wireRecord t d)).readN 0 (n + 12) = some (wireRecord t d) := by
  rw [← h, ← length_wireRecord t d]
  exact Memory.readN_writeN_same m 0 _

/-- Settles O33: R144's checks in their order, then the one write of the record at the start of OBUF. -/
theorem encodeEmitsTheWireRecord : Obligations.EncodeEmitsTheWireRecord := by
  refine ⟨decode_encode .encode, fun s => ⟨fun hdead => requireChunk_of_not_live hdead _, execEncode_of_too_long,
    fun hlive hfit hunwritten => ?_, fun d hlive hfit hd => ?_⟩⟩
  · exact exec_of_not_inputsWritten fun hinputs => hunwritten (hinputs hlive hfit)
  · have hrun := execEncode_of_readN hlive hfit hd
    exact ⟨_, hrun, readN_writeN_wireRecord _ _ (Memory.readN_length hd),
      fun a ha => execEncode_keeps_obuf_above hrun ha⟩

/-! ## R145: a live chunk's record fits -/

theorem State.Inv.recordFits (h : s.Inv) (hlive : s.chValid = true) : s.chLen.toNat + 12 ≤ Config.obufSize := by
  have hchunk := h.chunkFits hlive
  have hobuf := Config.obufSize_ge
  omega

/-- Settles O34: CAPACITY needs a live chunk whose record does not fit, which the invariant excludes. -/
theorem encodeOfALiveChunkFits : Obligations.EncodeOfALiveChunkFits := by
  intro s s' hs h
  refine ⟨?_, fun hlive => ⟨hs.recordFits hlive, ?_⟩⟩
  · obtain ⟨-, rfl⟩ | ⟨hlive, hlong, -⟩ | ⟨-, -, d, -, rfl⟩ := execEncode_next h
    · exact (by decide : ErrCode.noChunk.code ≠ 6#4)
    · exact absurd hlong (Nat.not_lt.2 (hs.recordFits hlive))
    · exact (by decide : ErrCode.none.code ≠ 6#4)
  · have hfit := hs.recordFits hlive
    have hobuf := Config.obufSize_le
    omega

/-! ## The layout of the wire record -/

theorem take_four_wireRecord (t : Word) (d : List Byte) :
    (wireRecord t d).take 4 = bytes32 (BitVec.ofNat 32 d.length) := rfl

theorem take_four_drop_four_wireRecord (t : Word) (d : List Byte) :
    ((wireRecord t d).drop 4).take 4 = bytes32 t := rfl

theorem drop_eight_wireRecord (t : Word) (d : List Byte) :
    (wireRecord t d).drop 8 = d ++ bytes32 (crc32 (bytes32 t ++ d)) := rfl

/-- Settles O32: the record taken apart at offsets 4, 8 and 8 + len, each number read back by `be32_bytes32`. -/
theorem wireRecordHasTheFrameLayout : Obligations.WireRecordHasTheFrameLayout := by
  intro t d hlen
  refine ⟨length_wireRecord t d, ?_, ?_, ?_, ?_⟩
  · rw [take_four_wireRecord, be32_bytes32, BitVec.toNat_ofNat, Nat.mod_eq_of_lt hlen]
  · rw [take_four_drop_four_wireRecord, be32_bytes32]
  · rw [drop_eight_wireRecord, List.take_left]
  · rw [← List.drop_drop, drop_eight_wireRecord, List.drop_left, be32_bytes32]

/-! ## The chunk PARSE built -/

/-- Settles O49: EXP_CRC is the CRC of the frame's type and payload, which CH_CRC computes again. -/
theorem chCrcOfAParsedChunkIsExpCrc : Obligations.ChCrcOfAParsedChunkIsExpCrc := by
  intro s hs hlive hoff
  obtain ⟨d, -, -, hd, -, -, hexp⟩ := hs hlive hoff
  have hrun : exec .chCrc s = _ := execChCrc_of_readN (d := d) hlive (by rw [hoff]; exact hd)
  exact ⟨_, hrun, rfl, (crcOut_of_acc rfl).trans hexp.symm, rfl⟩

/-- The fields of a parsed frame, put together, are the wire record of its chunk (R143, R160). -/
theorem State.ParsedFrame.readN_record (h : s.ParsedFrame) (hlive : s.chValid = true) (hoff : s.chOff = 8#32) :
    ∃ d, s.ibuf.readN s.chOff.toNat s.chLen.toNat = some d
      ∧ s.ibuf.readN 0 (s.chLen.toNat + 12) = some (wireRecord s.chType d) := by
  obtain ⟨d, hlength, htype, hdata, hcrc, -, -⟩ := h hlive hoff
  refine ⟨d, by rw [hoff]; exact hdata, ?_⟩
  have hhead := Memory.readN_add _ 0 4 4 hlength htype
  have hpayload := Memory.readN_add _ 0 8 _ hhead (by rwa [Nat.zero_add])
  have hrecord := Memory.readN_add _ 0 (8 + s.chLen.toNat) 4 hpayload (by rwa [Nat.zero_add])
  rw [show s.chLen.toNat + 12 = 8 + s.chLen.toNat + 4 by omega, hrecord, wireRecord, Memory.readN_length hdata,
    BitVec.ofNat_toNat, BitVec.setWidth_eq]

/-- A PARSE that succeeds leaves a live chunk of a frame that lies in IBUF (R164). -/
theorem execParse_success (h : execParse s = .next s') (herr : s'.err = 0#4) :
    s'.chValid = true ∧ s'.chOff = 8#32 ∧ 12 + s'.chLen.toNat ≤ Config.ibufSize ∧ s'.ParsedFrame := by
  rcases execParse_next h with ⟨-, rfl⟩ | ⟨-, rfl⟩ | ⟨-, hle, l, hl, ⟨-, rfl⟩ | ⟨hfit, hbody⟩⟩
  · exact nomatch err_setErr_eq_zero_iff.1 herr
  · exact nomatch err_setErr_eq_zero_iff.1 herr
  · exact nomatch err_setErr_eq_zero_iff.1 herr
  · obtain ⟨t, d, e, ht, hd, he, ⟨-, rfl⟩ | ⟨hcrc, rfl⟩⟩ := parseBody_next hbody
    · exact nomatch err_setErr_eq_zero_iff.1 herr
    · exact ⟨rfl, rfl, hfit.trans hle, parsedFrame_of_accepted hl ht hd he hcrc⟩

/-- Buffers that hold the same sequence hold the same bytes. -/
theorem Memory.read_eq_of_readN_eq_some {m m' : Memory} {n : Nat} {bs : List Byte} (h : m.readN 0 n = some bs)
    (h' : m'.readN 0 n = some bs) {a : Nat} (ha : a < n) : m.read a = m'.read a := by
  obtain ⟨-, hread⟩ := (readN_eq_some ..).1 h
  obtain ⟨-, hread'⟩ := (readN_eq_some ..).1 h'
  rw [← Nat.zero_add a, hread a ha, hread' a ha]

/-- Settles O50: PARSE read the wire record of the chunk it built, and ENCODE writes that record. -/
theorem encodeRewritesTheParsedFrame : Obligations.EncodeRewritesTheParsedFrame := by
  intro s s' h herr
  obtain ⟨hlive, hoff, hfit, hframe⟩ := execParse_success h herr
  obtain ⟨d, hd, hrecord⟩ := hframe.readN_record hlive hoff
  have hobuf := Config.obufSize_ge
  have hsize := Config.obufSize_le
  have hrun : exec .encode s' = _ := execEncode_of_readN hlive (by omega) hd
  have hout : (BitVec.ofNat 32 (s'.chLen.toNat + 12)).toNat = 12 + s'.chLen.toNat := by
    rw [BitVec.toNat_ofNat, Nat.mod_eq_of_lt (by omega), Nat.add_comm]
  refine ⟨_, hrun, rfl, hout, fun a ha => ?_⟩
  have hwritten := readN_writeN_wireRecord s'.obuf s'.chType (Memory.readN_length hd)
  rw [exec_keeps_ibuf (i := .parse) h] at hrecord
  exact Memory.read_eq_of_readN_eq_some hwritten hrecord (by omega)

end Sys2Proof.Machine
end

section
/-! The frame parser PARSE (spec/43_parse.md R160 to R168): what it answers for a truncated slice and for a whole frame,
what it reads of the slice, and what one changed byte of an accepted frame does. -/

namespace Sys2Proof.Machine

variable {s s' : State} {l t d e : List Byte}

/-! ## Truncated slices -/

theorem execParse_of_lt_four (h : s.inLen.toNat < 4) :
    execParse s = .next ((s.setCrcMatch false).setErr .truncated) := by
  have hsize := Config.ibufSize_ge
  unfold execParse
  exact (takeInLen_of_le (s := s.setCrcMatch false) (by rw [State.setCrcMatch_inLen]; omega) _).trans (if_pos h)

theorem execParse_of_truncated (h4 : 4 ≤ s.inLen.toNat) (hle : s.inLen.toNat ≤ Config.ibufSize)
    (hl : s.ibuf.readN 0 4 = some l) (hshort : s.inLen.toNat < 12 + (be32 l).toNat) :
    execParse s = .next (((s.setCrcMatch false).setDecLen (be32 l)).setErr .truncated) := by
  unfold execParse
  refine (takeInLen_of_le (s := s.setCrcMatch false) hle _).trans ((if_neg (Nat.not_lt.2 h4)).trans ?_)
  exact (memRead_of_some (s := s.setCrcMatch false) hl _).trans (if_pos hshort)

/-! ## Whole frames -/

/-- The fields of a frame at the start of a buffer: length, type, data and CRC (R160). -/
structure Memory.HoldsFrame (m : Memory) (l t d e : List Byte) : Prop where
  length : m.readN 0 4 = some l
  type : m.readN 4 4 = some t
  data : m.readN 8 (be32 l).toNat = some d
  crc : m.readN (8 + (be32 l).toNat) 4 = some e

theorem parseBody_of_mismatch {len : Word} (ht : s.ibuf.readN 4 4 = some t)
    (hd : s.ibuf.readN 8 len.toNat = some d) (he : s.ibuf.readN (8 + len.toNat) 4 = some e)
    (hcrc : crc32 (t ++ d) ≠ be32 e) : parseBody s len = .next ((parseDiag s t d e).setErr .integrity) := by
  calc parseBody s len
      = _ := memRead_of_some ht _
    _ = _ := memRead_of_some hd _
    _ = _ := memRead_of_some he _
    _ = _ := if_pos hcrc

theorem execParse_of_match (hle : s.inLen.toNat ≤ Config.ibufSize) (hfit : 12 + (be32 l).toNat ≤ s.inLen.toNat)
    (h : s.ibuf.HoldsFrame l t d e) (hcrc : crc32 (t ++ d) = be32 e) :
    execParse s = .next { s with
      decLen := be32 l, acc := crcFold crcInitial (t ++ d), expCrc := be32 e, crcMatch := true
      chLen := be32 l, chType := be32 t, chOff := 8#32, chValid := true, err := 0#4 } := by
  rw [execParse_of_fits hle h.length hfit,
    parseBody_of_match (s := (s.setCrcMatch false).setDecLen (be32 l)) h.type h.data h.crc hcrc]
  rfl

theorem execParse_of_mismatch (hle : s.inLen.toNat ≤ Config.ibufSize) (hfit : 12 + (be32 l).toNat ≤ s.inLen.toNat)
    (h : s.ibuf.HoldsFrame l t d e) (hcrc : crc32 (t ++ d) ≠ be32 e) :
    execParse s = .next { s with
      decLen := be32 l, acc := crcFold crcInitial (t ++ d), expCrc := be32 e, crcMatch := false, err := 2#4 } :=
  (execParse_of_fits hle h.length hfit).trans (parseBody_of_mismatch h.type h.data h.crc hcrc)

/-- Settles O36: the frame's bytes are given, and its CRC decides. -/
theorem parseAcceptsIffTheCrcsAgree : Obligations.ParseAcceptsIffTheCrcsAgree :=
  ⟨decode_encode .parse, fun _ _ _ _ _ hle hl hfit ht hd he =>
    ⟨execParse_of_match hle hfit ⟨hl, ht, hd, he⟩, execParse_of_mismatch hle hfit ⟨hl, ht, hd, he⟩⟩⟩

/-- A PARSE that ends on a slice that is not truncated has read a whole frame. -/
theorem holdsFrame_of_execParse (h : execParse s = .next s') (hle : s.inLen.toNat ≤ Config.ibufSize)
    (hl : s.ibuf.readN 0 4 = some l) (hfit : 12 + (be32 l).toNat ≤ s.inLen.toNat) :
    ∃ t d e, s.ibuf.HoldsFrame l t d e := by
  obtain ⟨t, d, e, ht, hd, he, -⟩ := parseBody_next ((execParse_of_fits hle hl hfit).symm.trans h)
  exact ⟨t, d, e, hl, ht, hd, he⟩

/-- The comparator's verdict on a slice that is not truncated, as the host reads it (R164). -/
theorem execParse_verdict (h : execParse s = .next s') (hle : s.inLen.toNat ≤ Config.ibufSize)
    (hl : s.ibuf.readN 0 4 = some l) (hfit : 12 + (be32 l).toNat ≤ s.inLen.toNat) :
    s'.decLen = be32 l ∧ ((s'.err = 2#4 ∧ s'.crcOut ≠ s'.expCrc) ∨
      (s'.err = 0#4 ∧ s'.crcOut = s'.expCrc ∧ s'.chLen = s'.decLen)) := by
  obtain ⟨t, d, e, hframe⟩ := holdsFrame_of_execParse h hle hl hfit
  by_cases hcrc : crc32 (t ++ d) = be32 e
  · cases h.symm.trans (execParse_of_match hle hfit hframe hcrc)
    exact ⟨rfl, .inr ⟨rfl, hcrc, rfl⟩⟩
  · cases h.symm.trans (execParse_of_mismatch hle hfit hframe hcrc)
    exact ⟨rfl, .inl ⟨rfl, hcrc⟩⟩

/-- Settles O35: both truncation checks, and for a slice that passes them the comparator's verdict. -/
theorem parseTruncationCheckIsExact : Obligations.ParseTruncationCheckIsExact := by
  refine fun s => ⟨execParse_of_lt_four, fun l h4 hle hl => ⟨execParse_of_truncated h4 hle hl, fun hfit s' h => ?_⟩⟩
  obtain ⟨-, ⟨herr, -⟩ | ⟨herr, -, -⟩⟩ := execParse_verdict h hle hl hfit
  · rw [herr]; decide
  · rw [herr]; decide

/-! ## Trailing bytes -/

/-- A frame is in the bytes 0 to 11 + L (R160). -/
theorem Memory.HoldsFrame.congr {m m' : Memory} (h : m.HoldsFrame l t d e)
    (hread : ∀ a, a < 12 + (be32 l).toNat → m'.read a = m.read a) : m'.HoldsFrame l t d e where
  length := (readN_congr fun _ _ => hread _ (by omega)).trans h.length
  type := (readN_congr fun _ _ => hread _ (by omega)).trans h.type
  data := (readN_congr fun _ _ => hread _ (by omega)).trans h.data
  crc := (readN_congr fun _ _ => hread _ (by omega)).trans h.crc

/-- Settles O38: the other slice holds the same frame, so the same CRCs decide. -/
theorem parseIgnoresTrailingBytes : Obligations.ParseIgnoresTrailingBytes := by
  intro s s' l m n hl hfit hle hfit' hle' hread h
  obtain ⟨t, d, e, hframe⟩ := holdsFrame_of_execParse h hle hl hfit
  have hframe' := hframe.congr hread
  by_cases hcrc : crc32 (t ++ d) = be32 e
  · cases h.symm.trans (execParse_of_match hle hfit hframe hcrc)
    exact execParse_of_match hle' hfit' hframe' hcrc
  · cases h.symm.trans (execParse_of_mismatch hle hfit hframe hcrc)
    exact execParse_of_mismatch hle' hfit' hframe' hcrc

/-! ## One changed byte -/

/-- The buffers differ in the byte at `a` and nowhere else. -/
def Memory.DifferAt (m m' : Memory) (a : Nat) : Prop := m'.read a ≠ m.read a ∧ ∀ c, c ≠ a → m'.read c = m.read c

section
variable {m m' : Memory} {a i n : Nat}

theorem Memory.DifferAt.readN_outside (h : m.DifferAt m' a) (hout : a < i ∨ i + n ≤ a) :
    m'.readN i n = m.readN i n :=
  readN_congr fun _ _ => h.2 _ (by omega)

/-- A sequence read across the changed byte is changed in one byte. -/
theorem Memory.DifferAt.readN_across (h : m.DifferAt m' a) {bs bs' : List Byte} (hbs : m.readN i n = some bs)
    (hbs' : m'.readN i n = some bs') (hi : i ≤ a) (ha : a < i + n) :
    ∃ p b c q, b ≠ c ∧ bs = p ++ b :: q ∧ bs' = p ++ c :: q := by
  induction n generalizing i bs bs' with
  | zero => omega
  | succ n ih =>
    obtain ⟨x, xs, rfl⟩ := List.exists_cons_of_length_eq_add_one (readN_length hbs)
    obtain ⟨y, ys, rfl⟩ := List.exists_cons_of_length_eq_add_one (readN_length hbs')
    obtain ⟨hx, hxs⟩ := readN_succ_eq_some.1 hbs
    obtain ⟨hy, hys⟩ := readN_succ_eq_some.1 hbs'
    rcases Nat.eq_or_lt_of_le hi with rfl | hlt
    · have hne : x ≠ y := fun hxy => h.1 (by rw [hx, hy, hxy])
      have htail : xs = ys := Option.some.inj (hxs.symm.trans ((h.readN_outside (by omega)).symm.trans hys))
      exact ⟨[], x, y, xs, hne, rfl, by rw [htail]; rfl⟩
    · have hhead : x = y := Option.some.inj (hx.symm.trans ((h.2 i (by omega)).symm.trans hy))
      obtain ⟨p, b, c, q, hne, rfl, rfl⟩ := ih hxs hys hlt (by omega)
      exact ⟨x :: p, b, c, q, hne, rfl, by rw [hhead]; rfl⟩

/-- A big-endian field with a changed byte has a changed value. -/
theorem Memory.DifferAt.be32_ne (h : m.DifferAt m' a) {bs bs' : List Byte} (hbs : m.readN i 4 = some bs)
    (hbs' : m'.readN i 4 = some bs') (hi : i ≤ a) (ha : a < i + 4) : be32 bs' ≠ be32 bs := by
  intro heq
  have hsame : bs' = bs := by rw [← bytes32_be32_of_readN hbs', heq, bytes32_be32_of_readN hbs]
  obtain ⟨p, b, c, q, hne, rfl, rfl⟩ := h.readN_across hbs hbs' hi ha
  exact hne (List.cons.inj (List.append_cancel_left hsame)).1.symm

/-- R168 a: a changed byte in type or data changes the computed CRC alone, one in the CRC field the expected CRC alone. -/
theorem Memory.HoldsFrame.crc_ne_of_differAt {t' d' e' : List Byte} (h : m.HoldsFrame l t d e)
    (h' : m'.HoldsFrame l t' d' e') (hcrc : crc32 (t ++ d) = be32 e) (hdiffer : m.DifferAt m' a) (h4 : 4 ≤ a)
    (ha : a < 12 + (be32 l).toNat) : crc32 (t' ++ d') ≠ be32 e' := by
  have hchecked := readN_add _ 4 4 _ h.type h.data
  have hchecked' := readN_add _ 4 4 _ h'.type h'.data
  rcases Nat.lt_or_ge a (8 + (be32 l).toNat) with hlt | hge
  · have he : e' = e :=
      Option.some.inj (h'.crc.symm.trans ((hdiffer.readN_outside (.inl hlt)).trans h.crc))
    obtain ⟨p, b, c, q, hne, heq, heq'⟩ := hdiffer.readN_across hchecked hchecked' h4 (by omega)
    rw [he, ← hcrc, heq, heq']
    exact crcDetectsEveryOneByteError p q c b hne.symm
  · have hsame : t' ++ d' = t ++ d :=
      Option.some.inj (hchecked'.symm.trans ((hdiffer.readN_outside (by omega)).trans hchecked))
    rw [hsame, hcrc]
    exact (hdiffer.be32_ne h.crc h'.crc hge (by omega)).symm

end

/-! ## One flipped bit of an accepted frame -/

theorem xor_shiftLeft_one_ne {j : Nat} (hj : j < 8) (b : Byte) : b ^^^ (1#8 <<< j) ≠ b := by
  intro h
  have hbit := congrArg (·.getLsbD j) h
  simp [hj] at hbit

/-- What PARSE has accepted: a whole frame with agreeing CRCs, whose length is the chunk's (R164). -/
theorem execParse_accepted (h : execParse s = .next s') (herr : s'.err = 0#4) :
    12 + s'.chLen.toNat ≤ Config.ibufSize ∧ ∃ l t d e, s.ibuf.HoldsFrame l t d e ∧ crc32 (t ++ d) = be32 e
      ∧ be32 l = s'.chLen := by
  obtain ⟨hlive, hoff, hfit, hparsed⟩ := execParse_success h herr
  obtain ⟨d, hl, ht, hd, he, -, -⟩ := hparsed hlive hoff
  rw [exec_keeps_ibuf (i := .parse) h] at hl ht hd he
  rw [← be32_bytes32 s'.chLen] at hd he
  exact ⟨hfit, _, _, d, _, ⟨hl, ht, hd, he⟩, (be32_bytes32 _).symm, be32_bytes32 _⟩

theorem written_of_holdsFrame (h : s.ibuf.HoldsFrame l t d e) : s.Written 0 (12 + (be32 l).toNat) := by
  have hhead := written_add.2 ⟨written_iff_readN.2 ⟨l, h.length⟩, written_iff_readN.2 ⟨t, h.type⟩⟩
  have hbody := written_add.2 ⟨hhead, written_iff_readN.2 ⟨d, by rw [Nat.zero_add]; exact h.data⟩⟩
  have hall := written_add.2 ⟨hbody, written_iff_readN.2 ⟨e, by rw [Nat.zero_add]; exact h.crc⟩⟩
  rwa [show 4 + 4 + (be32 l).toNat + 4 = 12 + (be32 l).toNat by omega] at hall

theorem State.Written.of_differAt {s₁ : State} {a i n : Nat} (h : s.Written i n) (hdiffer : s.ibuf.DifferAt s₁.ibuf a)
    (hsome : (s₁.ibuf.read a).isSome) : s₁.Written i n := fun k hk => by
  by_cases hka : i + k = a
  · rwa [hka]
  · rw [hdiffer.2 _ hka]
    exact h k hk

/-- PARSE reads no byte past the slice, so it ends on a slice whose bytes are all written. -/
theorem completes_execParse_of_written (h : s.Written 0 s.inLen.toNat) : Completes (execParse s) := by
  refine completes_execParse.2 fun h4 _ => ⟨fun k hk => h k (by omega), fun l _ hfit k hk => ?_⟩
  have := h (4 + k) (by omega)
  rwa [Nat.zero_add] at this

/-- R168 a: a byte of the type, the data or the CRC field is changed. -/
theorem err_integrity_of_differAt {s₁ t₁ : State} {a : Nat} (hframe : s.ibuf.HoldsFrame l t d e)
    (hcrc : crc32 (t ++ d) = be32 e) (hdiffer : s.ibuf.DifferAt s₁.ibuf a) (h4 : 4 ≤ a)
    (ha : a < 12 + (be32 l).toNat) (hle : s₁.inLen.toNat ≤ Config.ibufSize)
    (hfit : 12 + (be32 l).toNat ≤ s₁.inLen.toNat) (h : execParse s₁ = .next t₁) : t₁.err = 2#4 := by
  have hl := (hdiffer.readN_outside (i := 0) (n := 4) (by omega)).trans hframe.length
  obtain ⟨t', d', e', hframe'⟩ := holdsFrame_of_execParse h hle hl hfit
  have hcrc' := hframe.crc_ne_of_differAt hframe' hcrc hdiffer h4 ha
  cases h.symm.trans (execParse_of_mismatch hle hfit hframe' hcrc')
  rfl

/-- R168 b, c: a length field above `L`, in a slice just long enough for `L`, is truncated, and one below `L` is left to
the comparator. -/
theorem execParse_length_changed {L : Word} (h : execParse s = .next s') (hle : s.inLen.toNat ≤ Config.ibufSize)
    (hlen : s.inLen.toNat = 12 + L.toNat) (hl : s.ibuf.readN 0 4 = some l) :
    s'.decLen = be32 l ∧ (L < s'.decLen → s'.err = 3#4)
      ∧ (s'.decLen < L → (s'.err = 2#4 ∧ s'.crcOut ≠ s'.expCrc) ∨
        (s'.err = 0#4 ∧ s'.crcOut = s'.expCrc ∧ s'.chLen = s'.decLen)) := by
  rcases Nat.lt_or_ge s.inLen.toNat (12 + (be32 l).toNat) with hshort | hfit
  · cases h.symm.trans (execParse_of_truncated (by omega) hle hl hshort)
    exact ⟨rfl, fun _ => rfl, fun hlt => absurd (BitVec.lt_def.1 hlt) (by dsimp; omega)⟩
  · obtain ⟨hdec, hverdict⟩ := execParse_verdict h hle hl hfit
    exact ⟨hdec, fun hlt => absurd (BitVec.lt_def.1 hlt) (by rw [hdec]; omega), fun _ => hverdict⟩

/-- Settles O39: the changed slice is still written, so PARSE ends; then the cases of R168 by the place of the byte. -/
theorem oneFlippedBitIsReported : Obligations.OneFlippedBitIsReported := by
  intro s s' a j b m hrun herr hlen ha hj hb hflip hother
  obtain ⟨hsize, l, t, d, e, hframe, hcrc, hlength⟩ := execParse_accepted hrun herr
  have hle : s.inLen.toNat ≤ Config.ibufSize := hlen.trans_le hsize
  rw [← hlength] at hlen ⊢
  have hdiffer : s.ibuf.DifferAt m a :=
    ⟨by rw [hflip, hb]; exact fun heq => xor_shiftLeft_one_ne hj b (Option.some.inj heq), hother⟩
  have hwritten : State.Written { s with ibuf := m } 0 s.inLen.toNat :=
    (hlen ▸ written_of_holdsFrame hframe).of_differAt hdiffer (Option.isSome_of_eq_some hflip)
  obtain ⟨t₁, hrun₁⟩ := completes_execParse_of_written hwritten
  refine ⟨t₁, hrun₁, fun h4 => ?_, fun hlow => ?_⟩
  · exact err_integrity_of_differAt (s₁ := { s with ibuf := m }) hframe hcrc hdiffer h4 (by omega) hle hlen.ge hrun₁
  · obtain ⟨l₁, hl₁⟩ := written_iff_readN.1 fun k (hk : k < 4) => hwritten k (by omega)
    obtain ⟨hdec, hlonger, hshorter⟩ := execParse_length_changed hrun₁ hle hlen hl₁
    refine ⟨by rw [hdec, bytes32_be32_of_readN hl₁, hl₁], ?_, hlonger, hshorter⟩
    rw [hdec]
    exact hdiffer.be32_ne hframe.length hl₁ (Nat.zero_le a) (by omega)

end Sys2Proof.Machine
end

section
/-! NOP and the illegal command (spec/44_control.md R180, R181). -/

namespace Sys2Proof.Machine

variable {s : State}

/-- Settles O18: word 0 is the encoder's, and NOP has no other effect than its success. -/
theorem nopOnlyClearsErr : Obligations.NopOnlyClearsErr :=
  ⟨decode_encode .nop, fun _ => rfl⟩

/-- An illegal word written to an idle block leaves its BUSY at 0. -/
theorem runCommand_of_illegal {v : Word} {e : IllegalWord} (hidle : s.busy = false) (h : decode v = .error e) :
    runCommand v s = .next ((s.setCmd v).setErr .illegalCmd) := by
  have hbusy : ((startCommand v s).setErr .illegalCmd).setBusy false = (s.setCmd v).setErr .illegalCmd := by
    rw [State.setBusy, ← hidle]
    rfl
  calc runCommand v s
      = endCommand (execIllegal (startCommand v s)) := by rw [runCommand, h]
    _ = .next (((startCommand v s).setErr .illegalCmd).setBusy false) := rfl
    _ = .next ((s.setCmd v).setErr .illegalCmd) := by rw [hbusy]

theorem exists_decode_error_of_mem_corner_words :
    ∀ v ∈ [0x00000003#32, 0x00000101#32, 0x00010000#32, 0xFFFFFFFF#32], ∃ e, decode v = .error e := by
  obtain ⟨-, -, -, -, -, -, -, -, -, -, hop, himm, hrsv, hones⟩ := sampleWordsDecodeAsTheMapSays
  simp only [List.forall_mem_cons]
  exact ⟨⟨_, hop⟩, ⟨_, himm⟩, ⟨_, hrsv⟩, ⟨_, hones⟩, nofun⟩

/-- Settles O7: the write reaches CMD, and an illegal word's command only reports. -/
theorem illegalCommandReportsOnlyIllegalCmd : Obligations.IllegalCommandReportsOnlyIllegalCmd := by
  refine ⟨fun s v e hidle hillegal => ?_, exists_decode_error_of_mem_corner_words⟩
  calc issue (.regWrite 0x00 4 v) s
      = runCommand v (s.setReply none) := issue_regWrite hidle .cmd v
    _ = _ := runCommand_of_illegal (s := s.setReply none) hidle hillegal

end Sys2Proof.Machine
end

section
/-! How a command fails (spec/60_exceptions.md R201, R206): which errors it reports, and what it writes besides ERR. -/

namespace Sys2Proof.Machine

variable {s s' : State} {i : Instr}

/-! ## The commands other than PARSE -/

/-- They succeed or only raise an error of R201's table, but for ENCODE's CAPACITY check, which needs a live chunk whose
record does not fit. -/
theorem exec_succeeds_or_raises (h : exec i s = .next s') (hparse : i ≠ .parse) :
    s'.err = 0#4 ∨ ∃ e : ErrCode, s' = s.setErr e ∧
      (e.code ∈ errorsOf i ∨ (s.chValid = true ∧ Config.obufSize < s.chLen.toNat + 12)) := by
  cases i with
  | nop | crcInit | crcByte | tcRaw => cases h; exact .inl rfl
  | tcText =>
    rcases execTcText_next h with ⟨-, hend⟩ | ⟨-, -, hend⟩ | ⟨-, -, -, -, hend⟩ | ⟨-, -, -, -, rfl⟩
    · exact .inr ⟨.capacity, hend, .inl (by decide)⟩
    · exact .inr ⟨.invalidFormat, hend, .inl (by decide)⟩
    · exact .inr ⟨.invalidFormat, hend, .inl (by decide)⟩
    · exact .inl rfl
  | chNew =>
    rcases execChNew_next h with ⟨-, hend⟩ | ⟨-, rfl⟩
    · exact .inr ⟨.capacity, hend, .inl (by decide)⟩
    · exact .inl rfl
  | chCrc =>
    rcases execChCrc_next h with ⟨-, hend⟩ | ⟨-, -, -, rfl⟩
    · exact .inr ⟨.noChunk, hend, .inl (by decide)⟩
    · exact .inl rfl
  | parse => exact absurd rfl hparse
  | encode =>
    rcases execEncode_next h with ⟨-, hend⟩ | ⟨hlive, hlong, hend⟩ | ⟨-, -, -, -, rfl⟩
    · exact .inr ⟨.noChunk, hend, .inl (by decide)⟩
    · exact .inr ⟨.capacity, hend, .inr ⟨hlive, hlong⟩⟩
    · exact .inl rfl

/-! ## PARSE -/

theorem execParse_err (h : execParse s = .next s') : s'.err = 0#4 ∨ s'.err ∈ errorsOf .parse := by
  rcases execParse_next h with ⟨-, rfl⟩ | ⟨-, rfl⟩ | ⟨-, -, l, -, ⟨-, rfl⟩ | ⟨-, hbody⟩⟩
  · exact .inr (by decide : ErrCode.capacity.code ∈ errorsOf .parse)
  · exact .inr (by decide : ErrCode.truncated.code ∈ errorsOf .parse)
  · exact .inr (by decide : ErrCode.truncated.code ∈ errorsOf .parse)
  · obtain ⟨t, d, e, -, -, -, ⟨-, rfl⟩ | ⟨-, rfl⟩⟩ := parseBody_next hbody
    · exact .inr (by decide : ErrCode.integrity.code ∈ errorsOf .parse)
    · exact .inl rfl

/-- The state a failing PARSE leaves, by how far it came: stopped at IN_LEN, at the length field it decoded, or at the
comparator (R161 to R164, R206). -/
theorem execParse_failure (h : execParse s = .next s') (herr : s'.err ≠ 0#4) :
    ((s.inLen.toNat < 4 ∨ Config.ibufSize < s.inLen.toNat) ∧ ∃ e, s' = (s.setCrcMatch false).setErr e) ∨
    (4 ≤ s.inLen.toNat ∧ s.inLen.toNat ≤ Config.ibufSize ∧ s.ibuf.readN 0 4 = some (bytes32 s'.decLen) ∧
      (s' = ((s.setCrcMatch false).setDecLen s'.decLen).setErr .truncated ∨
       ∃ t d e, s' = (parseDiag ((s.setCrcMatch false).setDecLen s'.decLen) t d e).setErr .integrity)) := by
  rcases execParse_next h with ⟨hlong, hend⟩ | ⟨hshort, hend⟩ | ⟨h4, hle, l, hl, hlength⟩
  · exact .inl ⟨.inr hlong, _, hend⟩
  · exact .inl ⟨.inl hshort, _, hend⟩
  · rw [← bytes32_be32_of_readN hl] at hl
    refine .inr ⟨h4, hle, ?_⟩
    rcases hlength with ⟨-, rfl⟩ | ⟨-, hbody⟩
    · exact ⟨hl, .inl rfl⟩
    · obtain ⟨t, d, e, -, -, -, ⟨-, rfl⟩ | ⟨-, rfl⟩⟩ := parseBody_next hbody
      · exact ⟨hl, .inr ⟨t, d, e, rfl⟩⟩
      · exact absurd rfl herr

/-! ## The obligations -/

/-- Settles O40: the one error outside the table, ENCODE's CAPACITY, is excluded by the chunk window of the invariant. -/
theorem commandsReportOnlyTheirOwnErrors : Obligations.CommandsReportOnlyTheirOwnErrors := by
  intro i s s' hs h
  by_cases hparse : i = .parse
  · subst hparse
    exact execParse_err h
  · rcases exec_succeeds_or_raises h hparse with hnone | ⟨e, rfl, htable | ⟨hlive, hlong⟩⟩
    · exact .inl hnone
    · exact .inr htable
    · exact absurd hlong (Nat.not_lt.2 (hs.recordFits hlive))

/-- Settles O41: the diagnostics of PARSE by how far it came; every other command raises at the state it began in. -/
theorem failingCommandWritesOnlyDiagnostics : Obligations.FailingCommandWritesOnlyDiagnostics := by
  intro i s s' h herr
  refine ⟨fun hparse => ?_, ?_⟩
  · obtain ⟨e, rfl, -⟩ := (exec_succeeds_or_raises h hparse).resolve_left herr
    rfl
  · rintro rfl
    rcases execParse_failure h herr with ⟨hout, e, rfl⟩ | ⟨h4, hle, hl, hend⟩
    · exact ⟨rfl, fun _ => ⟨rfl, rfl⟩, fun _ => rfl, fun _ _ => by omega⟩
    · have hkept : s.inLen.toNat < 4 ∨ Config.ibufSize < s.inLen.toNat → s'.decLen = s.decLen := by omega
      rcases hend with hend | ⟨t, d, e, hend⟩
      · exact ⟨by rw [hend]; rfl, fun _ => by rw [hend]; exact ⟨rfl, rfl⟩, hkept, fun _ _ => hl⟩
      · have hintegrity : s'.err = 2#4 := by rw [hend]; rfl
        exact ⟨by rw [hend]; rfl, fun hne => absurd hintegrity hne, hkept, fun _ _ => hl⟩

end Sys2Proof.Machine
end

section
/-! Reset and the commands straight after it (spec/70_reset_and_hazards.md R220 to R222). -/

namespace Sys2Proof.Machine

/-- Reset is among what the host may do while BUSY = 1, so no busy check stops it (R222). -/
theorem issue_reset (s : State) : issue .reset s = .next (State.reset.setPending s.pending) := by
  rw [issue_eq_transact, transact, HostTxn.allowedWhileBusy, Bool.not_true, Bool.and_false]
  rfl

theorem crcOut_reset : State.reset.crcOut = 0#32 := BitVec.xor_self

theorem status_reset : State.reset.status = 0x00000770#32 := by decide

/-- Settles O9: from every state, busy or not, Reset leaves the reset state, but for the host's pending transactions. -/
theorem resetLeavesTheResetState : Obligations.ResetLeavesTheResetState := fun s =>
  ⟨_, issue_reset s, rfl, rfl, rfl, rfl, rfl, rfl, rfl, rfl, rfl, rfl, rfl, crcOut_reset, rfl, rfl, rfl, rfl,
    status_reset, Memory.read_nil, Memory.read_nil⟩

/-- After reset ACC already holds what CRC_INIT would give it (R125, R220). -/
theorem crcOut_crcBytes_reset (bs : List Byte) : ∃ s' s'',
    transactAll (bs.map fun b => asm (.crcByte b)) State.reset = .next s'
      ∧ transactAll (crcBytesOp bs) State.reset = .next s'' ∧ s'.crcOut = crc32 bs ∧ s''.crcOut = s'.crcOut := by
  obtain ⟨w, hfeed⟩ := transactAll_crcByte (s := State.reset) rfl rfl rfl bs
  obtain ⟨-, hcrcBytes⟩ := feedingBytesComputesTheirCrc
  obtain ⟨s'', hinit, hcrc, -⟩ := hcrcBytes State.reset bs rfl
  exact ⟨_, s'', hfeed, hinit, rfl, hcrc⟩

/-- Settles O10: after reset no chunk is live, TYPE and IN_LEN are 0, and ACC is the initial value. -/
theorem commandsStraightAfterReset : Obligations.CommandsStraightAfterReset := by
  have hchCrc : execChCrc State.reset = .next (State.reset.setErr .noChunk) := requireChunk_of_not_live rfl _
  have hencode : execEncode State.reset = .next (State.reset.setErr .noChunk) := requireChunk_of_not_live rfl _
  have hchNew : execChNew State.reset = .next ((State.reset.setChunk 0#32 0#32 0#32).setErr .none) :=
    execChNew_of_le (Nat.zero_le _)
  exact ⟨hchCrc, hencode, by decide, by decide, by decide, hchNew, crcOut_crcBytes_reset⟩

end Sys2Proof.Machine
end
